-- ==== Sys2Proof/Word.lean ====
section
/-! DEFINITION. The words that travel on the BG24's links: a byte, and a field of two bytes. -/

namespace Sys2Proof

/-- One byte of a frame or of a reply (R175). -/
abbrev Byte := BitVec 8

/-- A frame field of two bytes, low byte first in the frame (R185). -/
abbrev Half := BitVec 16

end Sys2Proof
end

