-- ==== Sys2Proof/Config.lean ====
section
/-! DEFINITION. What the BG24 fixes once for every part: sizes, ranges and the identity it answers with.
The spec leaves no result value open, so there is no free value here (NOTES.md, '## Assumptions'). -/

namespace Sys2Proof.Config

/-- The Claim Table holds 24 slot records (R26). -/
abbrev numSlots : Nat := 24

/-- Eight general lines, GL0 to GL7 (R163). -/
abbrev numLines : Nat := 8

/-- The keep-out map holds 4096 cell codes (R145). -/
abbrev numCells : Nat := 4096

/-- Each arm link's notice queue holds at most 6 notices (R180). -/
abbrev noticeCapacity : Nat := 6

/-- A link error counter stays at 15 once there (R184). -/
abbrev linkErrorMax : Nat := 15

/-- An accumulator stays at 16,777,215 once there (R201). -/
abbrev accumulatorMax : Nat := 16777215

/-- The bin volume's upper bound on x and on y (R2). -/
abbrev binMaxXY : Int := 8191

/-- The bin volume's upper bound on z (R2). -/
abbrev binMaxZ : Int := 2047

/-- The lower end of the working range of computed coordinates (R2). -/
abbrev workLo : Int := -16384

/-- The upper end of the working range of computed coordinates (R2). -/
abbrev workHi : Int := 16383

/-- The stopping distance is clamped at 4095 dmm (R20). -/
abbrev stopMax : Nat := 4095

/-- A reported speed is clamped at 4095 mm/s (R13). -/
abbrev speedMax : Nat := 4095

/-- The bytes of an arm frame (R175). -/
abbrev armFrameSize : Nat := 16

/-- The bytes of a cell controller frame (R175). -/
abbrev cellFrameSize : Nat := 32

/-- IDENT's part code (R196). -/
abbrev partCode : Byte := 0x24

/-- IDENT's revision (R196). -/
abbrev revision : Byte := 1

end Sys2Proof.Config
end

