-- ==== Sys2Proof/Syntax.lean ====
section
/-! DEFINITION. The commands of the BG24: one constructor of `Instr` for each row of spec/opcode_table.json.
A frame's command carries the fields that its layout names (sections 9.5 and 9.6), as raw bytes and two-byte
fields, so that every value a frame can hold is a value of the operand and the owning rule's check judges it.
An arm link's command carries the arm whose link took the frame. A line, timer or reset event carries the
line, slot or arm it happens to. -/

namespace Sys2Proof

/-- The two pick arms, and their two arm links (section 'Names in text' of spec/00_scope.md). -/
inductive Arm where
  | a
  | b
deriving DecidableEq, Repr

/-- The three serial links (R175): Arm Link A, Arm Link B and the Cell Controller Link. -/
inductive Link where
  | arm (p : Arm)
  | cell
deriving DecidableEq, Repr

/-- An electrical level at a pin (R163). -/
inductive Level where
  | low
  | high
deriving DecidableEq, Repr

/-- A box as a frame carries it: six signed bounds of 16 bits, not yet checked nor cut (R2, R38, R150). -/
structure RawBox where
  xlo : Half
  xhi : Half
  ylo : Half
  yhi : Half
  zlo : Half
  zhi : Half
deriving DecidableEq, Repr

/-- The commands and events that the BG24 takes, one constructor per row of spec/opcode_table.json. -/
inductive Instr where
  /-- NOP on an arm link (R177). -/
  | nop (arm : Arm)
  /-- ATTACH (R123). -/
  | attach (arm : Arm)
  /-- DETACH (R124). -/
  | detach (arm : Arm)
  /-- REPORT (R101): the argument byte, the tool point and the speed. -/
  | report (arm : Arm) (arg : Byte) (xa ya za v : Half)
  /-- CLAIM (R49): the class byte and the box. -/
  | claim (arm : Arm) (cls : Byte) (box : RawBox)
  /-- RELEASE (R83) of a handle. -/
  | release (arm : Arm) (slot gen : Byte)
  /-- CANCEL (R66) of a handle. -/
  | cancel (arm : Arm) (slot gen : Byte)
  /-- QUERY (R42) of a handle. -/
  | query (arm : Arm) (slot gen : Byte)
  /-- LIST (R44) from a start index. -/
  | list (arm : Arm) (start : Byte)
  /-- ACKSTOP (R138). -/
  | ackstop (arm : Arm)
  /-- A valid frame whose kind is not defined for its link (R177). -/
  | unknownKind (link : Link) (kind : Byte)
  /-- A short frame, or one that fails its CRC (R178). -/
  | frameFailed (link : Link)
  /-- NOP on the Cell Controller Link (R196). -/
  | cellNop
  /-- IDENT (R196). -/
  | ident
  /-- SET_MODE with a target byte other than CONFIG's (R188): 1 is RUN, any other value is BAD_ARG. -/
  | setModeRun (target : Byte)
  /-- SET_MODE CONFIG (R189). -/
  | setModeConfig
  /-- LOAD_CAL (R10). -/
  | loadCal (arm : Byte) (c s ox oy oz rxy rz : Half)
  /-- LOAD_PROFILE (R106). -/
  | loadProfile (arm profile : Byte) (decel react cap : Half)
  /-- LOAD_TIMING (R192). -/
  | loadTiming (code entry wait : Byte) (clearance : Half) (quotaA quotaB : Byte)
  /-- SET_LINE (R165). -/
  | setLine (line func polarity debounce : Byte)
  /-- SET_GEOMETRY (R149). -/
  | setGeometry (geometry : Byte)
  /-- MAP_FILL (R150). -/
  | mapFill (code : Byte) (box : RawBox)
  /-- MAP_CLEAR (R151). -/
  | mapClear
  /-- MAP_CURSOR (R152). -/
  | mapCursor (index : Half)
  /-- MAP_READ (R153). -/
  | mapRead
  /-- GROUP_SET (R155). -/
  | groupSet (group value : Byte)
  /-- FORCE_PROFILE (R109). -/
  | forceProfile (arm value : Byte)
  /-- STOP (R129). -/
  | stop (arm : Byte)
  /-- RESUME (R137). -/
  | resume (arm : Byte)
  /-- PURGE_ARM (R92). -/
  | purgeArm (arm : Byte)
  /-- PURGE_CLAIM (R93) of a handle. -/
  | purgeClaim (slot gen : Byte)
  /-- SET_CURSOR (R194). -/
  | setCursor (slot : Byte)
  /-- READ_CLAIM (R194). -/
  | readClaim
  /-- READ_ARM (R195). -/
  | readArm (arm : Byte)
  /-- SET_OUT (R170): the lines named and their values. -/
  | setOut (lines values : Byte)
  /-- TOGGLE_OUT (R170): the lines named. -/
  | toggleOut (lines : Byte)
  /-- READ_LINES (R171). -/
  | readLines
  /-- READ_EVENTS (R200). -/
  | readEvents
  /-- CLEAR_EVENTS (R200): the flags named. -/
  | clearEvents (flags : Half)
  /-- SET_MASK (R199). -/
  | setMask (mask : Half)
  /-- READ_COUNTERS (R202). -/
  | readCounters
  /-- CLEAR_COUNTERS (R202): the set of counters named. -/
  | clearCounters (set : Byte)
  /-- SET_ACC_ENABLE (R202). -/
  | setAccEnable (enables : Byte)
  /-- The expiry of a slot's lapse timer (R80). -/
  | lapse (slot : Fin 24)
  /-- The expiry of a slot's wait timer (R63). -/
  | waitExpiry (slot : Fin 24)
  /-- The expiry of an arm's report timer (R133). -/
  | reportTimerExpiry (arm : Arm)
  /-- The raw level at a general line's pin becomes `level` (R167). -/
  | rawLevelChange (line : Fin 8) (level : Level)
  /-- The expiry of a line's filter timer (R167). -/
  | filterTimerExpiry (line : Fin 8)
  /-- A millisecond of the internal time base (R1, R201). -/
  | accumulatorStep
  /-- RESETN falls, for at least 1 µs (R173). -/
  | resetnAssert
  /-- RESETN rises (R173). -/
  | resetnRelease
  /-- The supply rises above the power-on threshold (R173). -/
  | powerOnReset
  /-- The supply falls below the power-on threshold (R172, R173). -/
  | supplyBelowPowerOnThreshold
deriving DecidableEq, Repr

end Sys2Proof
end

