-- ==== Sys2Proof/WellFormed.lean ====
section
/-! DEFINITION. Which commands can arise. Operand types already hold every field to its width; two checks
remain, since two rows share their kind byte with other rows. -/

namespace Sys2Proof

/-- The kinds defined for a link: 0x00..0x09 on an arm link (section 9.5), 0x00..0x1D on the
Cell Controller Link (section 9.6). -/
def Link.kindDefined : Link → Byte → Bool
  | .arm _, kind => decide (kind.toNat ≤ 0x09)
  | .cell, kind => decide (kind.toNat ≤ 0x1D)

/-- A command that a frame, a line, a timer or a reset pin can give. UNKNOWN_KIND names a kind that its link does
not define (R177); SET_MODE with target 0 is SET_MODE_CONFIG and not SET_MODE_RUN (R188, R189). -/
def Instr.wellFormed : Instr → Bool
  | .unknownKind link kind => !link.kindDefined kind
  | .setModeRun target => target != 0
  | .nop _ | .attach _ | .detach _ | .report _ _ _ _ _ _ | .claim _ _ _ | .release _ _ _ | .cancel _ _ _
  | .query _ _ _ | .list _ _ | .ackstop _ | .frameFailed _ | .cellNop | .ident | .setModeConfig
  | .loadCal _ _ _ _ _ _ _ _ | .loadProfile _ _ _ _ _ | .loadTiming _ _ _ _ _ _ | .setLine _ _ _ _
  | .setGeometry _ | .mapFill _ _ | .mapClear | .mapCursor _ | .mapRead | .groupSet _ _ | .forceProfile _ _
  | .stop _ | .resume _ | .purgeArm _ | .purgeClaim _ _ | .setCursor _ | .readClaim | .readArm _
  | .setOut _ _ | .toggleOut _ | .readLines | .readEvents | .clearEvents _ | .setMask _ | .readCounters
  | .clearCounters _ | .setAccEnable _ | .lapse _ | .waitExpiry _ | .reportTimerExpiry _
  | .rawLevelChange _ _ | .filterTimerExpiry _ | .accumulatorStep | .resetnAssert | .resetnRelease
  | .powerOnReset | .supplyBelowPowerOnThreshold => true

end Sys2Proof
end

