-- ==== Sys2Proof/Decode.lean ====
section
/-! DEFINITION. Frames and the commands they carry. spec/opcode_table.json gives no row any bits, so
`decodeTableWord` spells no command; the frames of sections 9.5 and 9.6 do, and this file holds their CRC (R176),
their judgement by length and CRC (R175, R178), and their field layouts in both directions. -/

namespace Sys2Proof

/-- One step of the CRC-8 (R176): shift left by one place, and combine with 0x07 where the bit shifted out differs
from the data bit. -/
def crcBit (register : Byte) (bit : Bool) : Byte :=
  if register.msb = bit then register <<< 1 else (register <<< 1) ^^^ 0x07#8

/-- The bits of a byte, most significant first. -/
def bitsMsbFirst (b : Byte) : List Bool :=
  [b.getLsbD 7, b.getLsbD 6, b.getLsbD 5, b.getLsbD 4, b.getLsbD 3, b.getLsbD 2, b.getLsbD 1, b.getLsbD 0]

/-- One byte through the CRC register (R176). -/
def crcByte (register b : Byte) : Byte := (bitsMsbFirst b).foldl crcBit register

/-- The CRC-8 of a sequence of bytes (R176): generator x⁸ + x² + x + 1, start value 0xFF, no inversion at the end. -/
def crc8 (bytes : List Byte) : Byte := bytes.foldl crcByte 0xFF#8

/-- A frame or a reply of `size` bytes: its content, zeros up to the last byte, and the CRC (R176, R185). -/
def sealFrame (size : Nat) (content : List Byte) : List Byte :=
  let body := content ++ List.replicate (size - 1 - content.length) 0
  body ++ [crc8 body]

/-- Byte `n` of a frame. -/
def byteAt (f : List Byte) (n : Nat) : Byte := f.getD n 0

/-- The two-byte field that starts at byte `n`, low byte first (R185). -/
def halfAt (f : List Byte) (n : Nat) : Half := byteAt f (n + 1) ++ byteAt f n

/-- A two-byte field as its two bytes, low byte first (R185). -/
def halfBytes (h : Half) : List Byte := [h.extractLsb' 0 8, h.extractLsb' 8 8]

/-- The six bounds of a box from byte `n` on (sections 9.5 and 9.6). -/
def boxAt (f : List Byte) (n : Nat) : RawBox :=
  { xlo := halfAt f n, xhi := halfAt f (n + 2), ylo := halfAt f (n + 4), yhi := halfAt f (n + 6),
    zlo := halfAt f (n + 8), zhi := halfAt f (n + 10) }

/-- The twelve bytes of a box, in the order of the layouts. -/
def boxBytes (b : RawBox) : List Byte :=
  halfBytes b.xlo ++ halfBytes b.xhi ++ halfBytes b.ylo ++ halfBytes b.yhi ++ halfBytes b.zlo ++ halfBytes b.zhi

/-- The command of a valid arm frame, by its kind byte (section 9.5). -/
def decodeArmKind (p : Arm) (f : List Byte) : Instr :=
  match (byteAt f 0).toNat with
  | 0x00 => .nop p
  | 0x01 => .attach p
  | 0x02 => .detach p
  | 0x03 => .report p (byteAt f 1) (halfAt f 2) (halfAt f 4) (halfAt f 6) (halfAt f 8)
  | 0x04 => .claim p (byteAt f 1) (boxAt f 2)
  | 0x05 => .release p (byteAt f 2) (byteAt f 3)
  | 0x06 => .cancel p (byteAt f 2) (byteAt f 3)
  | 0x07 => .query p (byteAt f 2) (byteAt f 3)
  | 0x08 => .list p (byteAt f 1)
  | 0x09 => .ackstop p
  | _ => .unknownKind (.arm p) (byteAt f 0)

/-- The command of a valid cell controller frame, by its kind byte (section 9.6). -/
def decodeCellKind (f : List Byte) : Instr :=
  match (byteAt f 0).toNat with
  | 0x00 => .cellNop
  | 0x01 => .ident
  | 0x02 => if byteAt f 1 = 0 then .setModeConfig else .setModeRun (byteAt f 1)
  | 0x03 => .loadCal (byteAt f 1) (halfAt f 2) (halfAt f 4) (halfAt f 6) (halfAt f 8) (halfAt f 10) (halfAt f 12)
      (halfAt f 14)
  | 0x04 => .loadProfile (byteAt f 1) (byteAt f 2) (halfAt f 3) (halfAt f 5) (halfAt f 7)
  | 0x05 => .loadTiming (byteAt f 2) (byteAt f 3) (byteAt f 4) (halfAt f 5) (byteAt f 7) (byteAt f 8)
  | 0x06 => .setLine (byteAt f 1) (byteAt f 2) (byteAt f 3) (byteAt f 4)
  | 0x07 => .setGeometry (byteAt f 1)
  | 0x08 => .mapFill (byteAt f 1) (boxAt f 2)
  | 0x09 => .mapClear
  | 0x0A => .mapCursor (halfAt f 2)
  | 0x0B => .mapRead
  | 0x0C => .groupSet (byteAt f 1) (byteAt f 2)
  | 0x0D => .forceProfile (byteAt f 1) (byteAt f 2)
  | 0x0E => .stop (byteAt f 1)
  | 0x0F => .resume (byteAt f 1)
  | 0x10 => .purgeArm (byteAt f 1)
  | 0x11 => .purgeClaim (byteAt f 2) (byteAt f 3)
  | 0x12 => .setCursor (byteAt f 1)
  | 0x13 => .readClaim
  | 0x14 => .readArm (byteAt f 1)
  | 0x15 => .setOut (byteAt f 2) (byteAt f 3)
  | 0x16 => .toggleOut (byteAt f 2)
  | 0x17 => .readLines
  | 0x18 => .readEvents
  | 0x19 => .clearEvents (halfAt f 2)
  | 0x1A => .setMask (halfAt f 2)
  | 0x1B => .readCounters
  | 0x1C => .clearCounters (byteAt f 1)
  | 0x1D => .setAccEnable (byteAt f 1)
  | _ => .unknownKind .cell (byteAt f 0)

/-- The frame size of a link (R175). -/
def Link.frameSize : Link → Nat
  | .arm _ => Config.armFrameSize
  | .cell => Config.cellFrameSize

/-- A frame is valid when it is not short and its last byte is the CRC of the bytes before it; complete bytes
beyond the frame size are ignored (R175, R176). -/
def frameValid (link : Link) (bytes : List Byte) : Bool :=
  decide (link.frameSize ≤ bytes.length) &&
    byteAt bytes (link.frameSize - 1) == crc8 (bytes.take (link.frameSize - 1))

/-- The command that a frame gives at the rise of its chip select (R175, R177, R178). -/
def decodeFrame (link : Link) (bytes : List Byte) : Instr :=
  if frameValid link bytes then
    match link with
    | .arm p => decodeArmKind p bytes
    | .cell => decodeCellKind bytes
  else .frameFailed link

/-- The content of the frame that carries a command, before its zeros and its CRC, with its link; none for a command
that no frame carries. A failed frame is written as a frame of no bytes at all. -/
def frameContent : Instr → Option (Link × List Byte)
  | .nop p => some (.arm p, [0x00])
  | .attach p => some (.arm p, [0x01])
  | .detach p => some (.arm p, [0x02])
  | .report p arg xa ya za v =>
      some (.arm p, [0x03, arg] ++ halfBytes xa ++ halfBytes ya ++ halfBytes za ++ halfBytes v)
  | .claim p cls box => some (.arm p, [0x04, cls] ++ boxBytes box)
  | .release p slot gen => some (.arm p, [0x05, 0, slot, gen])
  | .cancel p slot gen => some (.arm p, [0x06, 0, slot, gen])
  | .query p slot gen => some (.arm p, [0x07, 0, slot, gen])
  | .list p start => some (.arm p, [0x08, start])
  | .ackstop p => some (.arm p, [0x09])
  | .unknownKind link kind => some (link, [kind])
  | .frameFailed link => some (link, [])
  | .cellNop => some (.cell, [0x00])
  | .ident => some (.cell, [0x01])
  | .setModeConfig => some (.cell, [0x02, 0])
  | .setModeRun target => some (.cell, [0x02, target])
  | .loadCal arm c s ox oy oz rxy rz =>
      some (.cell, [0x03, arm] ++ halfBytes c ++ halfBytes s ++ halfBytes ox ++ halfBytes oy ++ halfBytes oz ++
        halfBytes rxy ++ halfBytes rz)
  | .loadProfile arm profile decel react cap =>
      some (.cell, [0x04, arm, profile] ++ halfBytes decel ++ halfBytes react ++ halfBytes cap)
  | .loadTiming code entry wait clearance qa qb =>
      some (.cell, [0x05, 0, code, entry, wait] ++ halfBytes clearance ++ [qa, qb])
  | .setLine line func pol deb => some (.cell, [0x06, line, func, pol, deb])
  | .setGeometry g => some (.cell, [0x07, g])
  | .mapFill code box => some (.cell, [0x08, code] ++ boxBytes box)
  | .mapClear => some (.cell, [0x09])
  | .mapCursor index => some (.cell, [0x0A, 0] ++ halfBytes index)
  | .mapRead => some (.cell, [0x0B])
  | .groupSet group value => some (.cell, [0x0C, group, value])
  | .forceProfile arm value => some (.cell, [0x0D, arm, value])
  | .stop arm => some (.cell, [0x0E, arm])
  | .resume arm => some (.cell, [0x0F, arm])
  | .purgeArm arm => some (.cell, [0x10, arm])
  | .purgeClaim slot gen => some (.cell, [0x11, 0, slot, gen])
  | .setCursor slot => some (.cell, [0x12, slot])
  | .readClaim => some (.cell, [0x13])
  | .readArm arm => some (.cell, [0x14, arm])
  | .setOut lines values => some (.cell, [0x15, 0, lines, values])
  | .toggleOut lines => some (.cell, [0x16, 0, lines])
  | .readLines => some (.cell, [0x17])
  | .readEvents => some (.cell, [0x18])
  | .clearEvents flags => some (.cell, [0x19, 0] ++ halfBytes flags)
  | .setMask mask => some (.cell, [0x1A, 0] ++ halfBytes mask)
  | .readCounters => some (.cell, [0x1B])
  | .clearCounters set => some (.cell, [0x1C, set])
  | .setAccEnable enables => some (.cell, [0x1D, enables])
  | .lapse _ | .waitExpiry _ | .reportTimerExpiry _ | .rawLevelChange _ _ | .filterTimerExpiry _
  | .accumulatorStep | .resetnAssert | .resetnRelease | .powerOnReset | .supplyBelowPowerOnThreshold => none

/-- The frame that carries a command, with its link. -/
def encodeFrame (i : Instr) : Option (Link × List Byte) :=
  match frameContent i with
  | none => none
  | some (link, []) => some (link, [])
  | some (link, b :: content) => some (link, sealFrame link.frameSize (b :: content))

/-- The command that a word spells by the bits of spec/opcode_table.json. The table gives no row any bits: a frame
is 16 or 32 bytes and is read by `decodeFrame`, and the other rows are no frames at all. -/
def decodeTableWord (_nbits _w : Nat) : Option Instr := none

end Sys2Proof
end

