-- ==== Sys2Proof/Machine/State.lean ====
section
/-! DEFINITION. Everything the BG24 holds, as plain data, and the state right after reset. Where a field is present
in some states of a record only, the record is an inductive type whose constructors carry just the fields present.
Conditions that the spec defines from other state (group activity, the e-stop, level flags, ALERT, the permits, the
levels driven on the lines) are stored nowhere: Machine/Flags.lean and Machine/Lines.lean compute them. -/

namespace Sys2Proof.Machine

/-- Device mode (R187). -/
inductive Mode where
  | config
  | run
deriving DecidableEq, Repr

/-- Arm state (R121). -/
inductive ArmState where
  | detached
  | run
  | stopped
  | lost
deriving DecidableEq, Repr

/-- Claim class (R50). -/
inductive ClaimClass where
  | normal
  | urgent
deriving DecidableEq, Repr

/-- The two profiles of an arm (R106). -/
inductive ProfileName where
  | full
  | reduced
deriving DecidableEq, Repr

/-- The place of a verdict (R113). -/
inductive Place where
  | outside
  | contained
  | escaped
deriving DecidableEq, Repr

/-- The map geometries (R145). -/
inductive Geometry where
  | g64
  | g32
  | g16
deriving DecidableEq, Repr

/-- The three guard groups (R154). A map cell's code is an `Option Group`: none is code 0, an open cell (R145). -/
inductive Group where
  | g1
  | g2
  | g3
deriving DecidableEq, Repr

/-- A line's polarity (R166). -/
inductive Polarity where
  | activeHigh
  | activeLow
deriving DecidableEq, Repr

/-- The eleven line functions (R164). -/
inductive LineFunction where
  | unused
  | guardIn (g : Group)
  | estopIn
  | permitMirror (p : Arm)
  | alertMirror
  | waitOut (p : Arm)
  | generalOut
deriving DecidableEq, Repr

/-- Notice kinds (R180). -/
inductive NoticeKind where
  | granted
  | lapsed
  | waitExpired
  | retired
  | revoked
  | purged
  | cancelled
deriving DecidableEq, Repr

/-- Result codes (section 9.4). -/
inductive Result where
  | ok
  | granted
  | waiting
  | retired
  | releasing
  | refusedMode
  | refusedState
  | notReady
  | badBox
  | badArg
  | quota
  | noSlot
  | waitBusy
  | cycle
  | staleHandle
  | notOwner
  | calBad
  | crcFail
  | unknownKind
deriving DecidableEq, Repr

/-- Stop causes (R122). -/
inductive StopCause where
  | envelope
  | intrusion
  | overspeed
  | estop
  | supervisor
  | link
deriving DecidableEq, Repr

/-- Claim state codes, as QUERY, LIST and READ_CLAIM show them (section 9.4). -/
inductive ClaimState where
  | free
  | waiting
  | granted
  | occupied
  | releasing
deriving DecidableEq, Repr

/-- One value for each arm. -/
structure PerArm (α : Type) where
  a : α
  b : α
deriving DecidableEq, Repr

/-- One value for each guard group. -/
structure PerGroup (α : Type) where
  g1 : α
  g2 : α
  g3 : α
deriving DecidableEq, Repr

/-- A box of six inclusive bounds in dmm, x, y, z (R3). -/
structure Box where
  xlo : Int
  xhi : Int
  ylo : Int
  yhi : Int
  zlo : Int
  zhi : Int
deriving DecidableEq, Repr

/-- A calibration record (R9). -/
structure Calibration where
  c : Int
  s : Int
  ox : Int
  oy : Int
  oz : Int
  rxy : Int
  rz : Int
  loaded : Bool
deriving DecidableEq, Repr

/-- A profile record (R106): deceleration in mm/s², reaction time in ms, speed cap in mm/s. -/
structure Profile where
  decel : Nat
  react : Nat
  cap : Nat
deriving DecidableEq, Repr

/-- The two profile records of one arm (R106). -/
structure ProfilePair where
  full : Profile
  reduced : Profile
deriving DecidableEq, Repr

/-- The timing set with the clearance and the quotas (R191, R192): T_entry and T_wait in steps of 10 ms. -/
structure Timing where
  reportCode : Fin 8
  entrySteps : Nat
  waitSteps : Nat
  clearance : Nat
  quota : PerArm Nat
deriving DecidableEq, Repr

/-- A verdict (R112). -/
structure Verdict where
  place : Place
  intrusion : Bool
  overspeed : Bool
deriving DecidableEq, Repr

/-- What the last accepted report left (R103): the swept box, its bin part (none while empty) and the kept verdict. -/
structure LastReport where
  swept : Box
  binPart : Option Box
  verdict : Verdict
deriving DecidableEq, Repr

/-- A report record (R103). The record is valid exactly while `last` is present; an invalid record has no swept box,
bin part or verdict. `forced` is none for NONE. -/
structure ReportRecord where
  requested : ProfileName
  forced : Option ProfileName
  inUse : ProfileName
  pending : Bool
  last : Option LastReport
  fresh : Bool
deriving DecidableEq, Repr

/-- A stop cause set (R122): which of the six causes stand in it. -/
structure CauseSet where
  envelope : Bool
  intrusion : Bool
  overspeed : Bool
  estop : Bool
  supervisor : Bool
  link : Bool
deriving DecidableEq, Repr

/-- A guard controller record (R121). The report timer is none while stopped, and otherwise holds the whole
milliseconds left (R1, R43). -/
structure Guard where
  state : ArmState
  causes : CauseSet
  resumeRequested : Bool
  stopAcknowledged : Bool
  reportTimer : Option Nat
deriving DecidableEq, Repr

/-- The owner, class and box of a claim, written once when its slot leaves FREE (R27). -/
structure ClaimData where
  owner : Arm
  cls : ClaimClass
  box : Box
deriving DecidableEq, Repr

/-- A blocker set (R53): slots of the other arm, ascending, and groups, ascending. -/
structure Blockers where
  slots : List (Fin 24)
  groups : List Group
deriving DecidableEq, Repr

/-- What a slot holds in each of its five states, with the fields present there (R27). `left` is the remaining whole
milliseconds of the running lapse or wait timer (R43). -/
inductive SlotBody where
  | free
  | waiting (claim : ClaimData) (left : Nat) (blockers : Blockers)
  | granted (claim : ClaimData) (left : Nat)
  | occupied (claim : ClaimData)
  | releasing (claim : ClaimData)
deriving DecidableEq, Repr

/-- A slot record (R26); the slot number is its position, the wait position its place in the wait list. -/
structure Slot where
  gen : Fin 16
  body : SlotBody
deriving DecidableEq, Repr

/-- A notice (R180). -/
structure Notice where
  kind : NoticeKind
  slot : Fin 24
  gen : Fin 16
deriving DecidableEq, Repr

/-- The fields of an arm reply's state byte (section 9.5). -/
structure ArmStatus where
  state : ArmState
  noticeLost : Bool
  inUse : ProfileName
  pending : Bool
  resumeRequested : Bool
  stopAcknowledged : Bool
deriving DecidableEq, Repr

/-- One used entry of a LIST reply (R44). -/
structure ListEntry where
  slot : Fin 24
  state : ClaimState
  gen : Fin 16
deriving DecidableEq, Repr

/-- The data of an arm reply (section 9.5). -/
inductive ArmData where
  | empty
  | report (verdict : Verdict) (d : Nat)
  | handle (slot : Fin 24) (gen : Fin 16)
  | query (state : ClaimState) (cls : ClaimClass) (remaining : Nat)
  | list (count : Nat) (entries : List ListEntry)
deriving DecidableEq, Repr

/-- The reply held in an arm link's reply slot (R179); Machine/Replies.lean lays out its 16 bytes. -/
structure ArmReply where
  echo : Byte
  status : ArmStatus
  result : Result
  notice : Option Notice
  data : ArmData
deriving DecidableEq, Repr

/-- An arm link (sections 9.1 to 9.3): its reply slot, notice queue (oldest first), NOTICE_LOST indication, link
error counter, and the complete bytes of the frame in progress, none while its chip select is high. -/
structure ArmLink where
  reply : ArmReply
  queue : List Notice
  noticeLost : Bool
  errors : Nat
  incoming : Option (List Byte)
deriving DecidableEq, Repr

/-- An accumulator with its enable (R201). -/
structure Accumulator where
  value : Nat
  enabled : Bool
deriving DecidableEq, Repr

/-- What READ_LINES shows of one line (R171). -/
structure LineReading where
  raw : Level
  filtered : Bool
  func : LineFunction
  out : Bool
deriving DecidableEq, Repr

/-- The data of a cell controller reply (section 9.6). A record read whole is carried as the record. -/
inductive CellData where
  | empty
  | identity
  | calBad (arm : Arm)
  | cellsTouched (n : Nat)
  | mapCodes (codes : List (Option Group))
  | groups (flags activity : PerGroup Bool)
  | purged (n : Nat)
  | claimRecord (slot : Fin 24) (record : Slot) (position : Nat)
  | armRecord (guard : Guard) (record : ReportRecord)
  | outputs (values : List Bool)
  | lines (readings : List LineReading) (estop : Bool)
  | events (flags mask : Half)
  | counters (errors : List Nat) (accumulators : List Accumulator)
deriving DecidableEq, Repr

/-- The reply held in the Cell Controller Link's reply slot (R179); Machine/Replies.lean lays out its 32 bytes. -/
structure CellReply where
  echo : Byte
  mode : Mode
  clamped : Bool
  alertLow : Bool
  result : Result
  data : CellData
deriving DecidableEq, Repr

/-- The Cell Controller Link: its reply slot, claim cursor (R194), map cursor (R152), link error counter (R184) and
frame in progress. -/
structure CellLink where
  reply : CellReply
  claimCursor : Fin 24
  mapCursor : Fin 4096
  errors : Nat
  incoming : Option (List Byte)
deriving DecidableEq, Repr

/-- The keep-out map and the supervisor flags (R145, R154). `cells` lists the cells that belong to a group, by strictly
rising cell index below 4096; a cell that is not listed is open. -/
structure KeepOut where
  geometry : Geometry
  cells : List (Nat × Group)
  flags : PerGroup Bool
deriving DecidableEq, Repr

/-- A line record (R163), and the two facts of the world at its pin: the level the wiring puts there, and whether a
wiring fault holds the pin at that level against the line's own driver (R169). The filter timer is none while stopped,
and otherwise holds the whole milliseconds left. -/
structure Line where
  func : LineFunction
  polarity : Polarity
  debounce : Nat
  filtered : Bool
  filterTimer : Option Nat
  out : Bool
  wire : Level
  wireHolds : Bool
deriving DecidableEq, Repr

/-- The twelve sticky event flags (R198). -/
structure StickyFlags where
  stop : PerArm Bool
  lost : PerArm Bool
  linkErr : PerArm Bool
  linkErrCell : Bool
  lapse : Bool
  waitExpired : Bool
  revoked : Bool
  noticeLost : PerArm Bool
deriving DecidableEq, Repr

/-- The Event Unit (R198, R199, R201); the four level flags follow their conditions and are not stored. -/
structure EventUnit where
  sticky : StickyFlags
  mask : Half
  waitMs : PerArm Accumulator
  haltMs : PerArm Accumulator
deriving DecidableEq, Repr

/-- The whole of the BG24. `pending` is the model's own queue of commands and events, first in, first out. -/
structure State where
  /-- Device mode (R187). -/
  mode : Mode
  /-- Calibration records (R9). -/
  cal : PerArm Calibration
  /-- Profile records (R106). -/
  profiles : PerArm ProfilePair
  /-- Timing set, clearance and quotas (R191). -/
  timing : Timing
  /-- Report records (R103). -/
  records : PerArm ReportRecord
  /-- Guard controller records (R121). -/
  guards : PerArm Guard
  /-- The Claim Table's slot records (R26). -/
  slots : Vector Slot 24
  /-- The wait list, front first (R57). -/
  waitList : List (Fin 24)
  /-- The arm links (chapter 9). -/
  links : PerArm ArmLink
  /-- The Cell Controller Link (chapters 9 and 10). -/
  cell : CellLink
  /-- The keep-out map and supervisor flags (chapter 7). -/
  keepOut : KeepOut
  /-- The general lines (R163). -/
  lines : Vector Line 8
  /-- The Event Unit (chapter 11). -/
  events : EventUnit
  /-- RESETN is low (R173). -/
  resetnLow : Bool
  /-- The supply is below the power-on threshold (R172, R173). -/
  supplyLow : Bool
  /-- The commands and events waiting to be taken. -/
  pending : List Instr
deriving DecidableEq, Repr

/-- Why a step faults. No command or event of the BG24 stops the machine: the spec answers every frame and gives every
event an outcome, so there is no fault to name and no way to build one (safe). -/
inductive Fault where
deriving DecidableEq, Repr

/-- Why a step is refused. -/
inductive Refusal where
  /-- Raised by exec's arm of a command that has no meaning yet; safe, since nothing is claimed of its effect. -/
  | notModelled (mnemonic : String)
deriving DecidableEq, Repr

/-- The reset value of an arm's calibration record (R9). -/
def Calibration.reset : Calibration :=
  { c := 0, s := 0, ox := 0, oy := 0, oz := 0, rxy := 0, rz := 0, loaded := false }

/-- The reset values of an arm's profile records (R106). -/
def ProfilePair.reset : ProfilePair :=
  { full := { decel := 5000, react := 20, cap := 1500 }, reduced := { decel := 2500, react := 20, cap := 250 } }

/-- The reset values of the timing set (R191). -/
def Timing.reset : Timing :=
  { reportCode := 4, entrySteps := 50, waitSteps := 200, clearance := 100, quota := { a := 8, b := 8 } }

/-- The reset value of an arm's report record (R104). -/
def ReportRecord.reset : ReportRecord :=
  { requested := .full, forced := none, inUse := .full, pending := false, last := none, fresh := false }

/-- The empty cause set. -/
def CauseSet.empty : CauseSet :=
  { envelope := false, intrusion := false, overspeed := false, estop := false, supervisor := false, link := false }

/-- The reset value of a guard controller record (R121). -/
def Guard.reset : Guard :=
  { state := .detached, causes := CauseSet.empty, resumeRequested := false, stopAcknowledged := false,
    reportTimer := none }

/-- The reset value of a slot (R46). -/
def Slot.reset : Slot := { gen := 0, body := .free }

/-- The reset value of an arm link (R179, R180, R182, R184): its slot holds a NOP reply that shows DETACHED. -/
def ArmLink.reset : ArmLink :=
  { reply :=
      { echo := 0
        status := { state := .detached, noticeLost := false, inUse := .full, pending := false,
                    resumeRequested := false, stopAcknowledged := false }
        result := .ok, notice := none, data := .empty }
    queue := [], noticeLost := false, errors := 0, incoming := none }

/-- The reset value of the Cell Controller Link (R152, R179, R184, R194). -/
def CellLink.reset : CellLink :=
  { reply := { echo := 0, mode := .config, clamped := false, alertLow := false, result := .ok, data := .empty }
    claimCursor := 0, mapCursor := 0, errors := 0, incoming := none }

/-- The reset value of the keep-out map and the supervisor flags (R145, R154). -/
def KeepOut.reset : KeepOut :=
  { geometry := .g32, cells := [], flags := { g1 := false, g2 := false, g3 := false } }

/-- The reset value of a line whose pin the wiring holds at `wire` (R163): the filtered level is taken at once from
the raw level under ACTIVE_HIGH (R167). -/
def Line.resetAt (wire : Level) : Line :=
  { func := .unused, polarity := .activeHigh, debounce := 2, filtered := decide (wire = .high), filterTimer := none,
    out := false, wire := wire, wireHolds := false }

/-- The reset value of the Event Unit (R198, R199, R201). -/
def EventUnit.reset : EventUnit :=
  { sticky := { stop := { a := false, b := false }, lost := { a := false, b := false },
                linkErr := { a := false, b := false }, linkErrCell := false, lapse := false, waitExpired := false,
                revoked := false, noticeLost := { a := false, b := false } }
    mask := 0xFFF0
    waitMs := { a := { value := 0, enabled := false }, b := { value := 0, enabled := false } }
    haltMs := { a := { value := 0, enabled := false }, b := { value := 0, enabled := false } } }

/-- The BG24 right after a device reset (R173, R197), every general line's pin low.
DESIGN CHOICE: the spec gives no level to an input pin, which the wiring decides; log entry 1 (unsafe). -/
def State.reset : State :=
  { mode := .config
    cal := { a := Calibration.reset, b := Calibration.reset }
    profiles := { a := ProfilePair.reset, b := ProfilePair.reset }
    timing := Timing.reset
    records := { a := ReportRecord.reset, b := ReportRecord.reset }
    guards := { a := Guard.reset, b := Guard.reset }
    slots := Vector.replicate 24 Slot.reset
    waitList := []
    links := { a := ArmLink.reset, b := ArmLink.reset }
    cell := CellLink.reset
    keepOut := KeepOut.reset
    lines := Vector.replicate 8 (Line.resetAt .low)
    events := EventUnit.reset
    resetnLow := false
    supplyLow := false
    pending := [] }

end Sys2Proof.Machine
end

