-- ==== Sys2Proof/Machine/Ops.lean ====
section
/-! DEFINITION. The named reads and writes of State that every meaning is built from. -/

namespace Sys2Proof

/-- The other arm: Q where the arm is P, and P where it is Q. -/
def Arm.other : Arm → Arm
  | .a => .b
  | .b => .a

namespace Machine

/-- The value of arm P. -/
def PerArm.get {α : Type} (v : PerArm α) : Arm → α
  | .a => v.a
  | .b => v.b

/-- The values with arm P's replaced. -/
def PerArm.set {α : Type} (v : PerArm α) (p : Arm) (x : α) : PerArm α :=
  match p with
  | .a => { v with a := x }
  | .b => { v with b := x }

/-- The value of group g. -/
def PerGroup.get {α : Type} (v : PerGroup α) : Group → α
  | .g1 => v.g1
  | .g2 => v.g2
  | .g3 => v.g3

/-- The values with group g's replaced. -/
def PerGroup.set {α : Type} (v : PerGroup α) (g : Group) (x : α) : PerGroup α :=
  match g with
  | .g1 => { v with g1 := x }
  | .g2 => { v with g2 := x }
  | .g3 => { v with g3 := x }

/-- Both arms, A first. -/
def allArms : List Arm := [.a, .b]

/-- The three guard groups, ascending. -/
def allGroups : List Group := [.g1, .g2, .g3]

/-- The 24 slots, ascending. -/
def allSlots : List (Fin 24) := List.finRange 24

/-- The eight general lines, ascending. -/
def allLines : List (Fin 8) := List.finRange 8

/-- The part is held in reset while RESETN is low or the supply is below the power-on threshold (R173). -/
def State.inReset (s : State) : Bool := s.resetnLow || s.supplyLow

/-! ### Guard controller records -/

/-- Arm P's guard controller record (R121). -/
def State.guard (s : State) (p : Arm) : Guard := s.guards.get p

/-- The state with arm P's guard controller record replaced. -/
def State.setGuard (s : State) (p : Arm) (g : Guard) : State := { s with guards := s.guards.set p g }

/-- Arm P's arm state (R121). -/
def State.armState (s : State) (p : Arm) : ArmState := (s.guard p).state

/-! ### Report records -/

/-- Arm P's report record (R103). -/
def State.record (s : State) (p : Arm) : ReportRecord := s.records.get p

/-- The state with arm P's report record replaced. -/
def State.setRecord (s : State) (p : Arm) (r : ReportRecord) : State := { s with records := s.records.set p r }

/-- Arm P's last bin part (R103): none while it is empty and while the record is invalid. -/
def State.binPart (s : State) (p : Arm) : Option Box :=
  match (s.record p).last with
  | none => none
  | some l => l.binPart

/-- Arm P's fresh-report flag clears (R117). -/
def State.clearFresh (s : State) (p : Arm) : State := s.setRecord p { s.record p with fresh := false }

/-! ### Links -/

/-- Arm P's link. -/
def State.link (s : State) (p : Arm) : ArmLink := s.links.get p

/-- The state with arm P's link replaced. -/
def State.setLink (s : State) (p : Arm) (l : ArmLink) : State := { s with links := s.links.set p l }

/-! ### Slots -/

/-- The record of slot k (R26). -/
def State.slot (s : State) (k : Fin 24) : Slot := s.slots[k]

/-- What slot k holds. -/
def State.body (s : State) (k : Fin 24) : SlotBody := (s.slot k).body

/-- The state with slot k's record replaced. -/
def State.setSlot (s : State) (k : Fin 24) (x : Slot) : State := { s with slots := s.slots.set k x }

/-- Slot k enters another state, its generation unchanged (R32). -/
def State.setBody (s : State) (k : Fin 24) (b : SlotBody) : State := s.setSlot k { s.slot k with body := b }

/-- Every slot's body changed at once by a function of its number and body, the generations unchanged. -/
def State.mapBodies (s : State) (f : Fin 24 → SlotBody → SlotBody) : State :=
  { s with slots := Vector.ofFn (fun k => { s.slot k with body := f k (s.body k) }) }

/-! ### Lines -/

/-- The record of line n (R163). -/
def State.line (s : State) (n : Fin 8) : Line := s.lines[n]

/-- The state with line n's record replaced. -/
def State.setLine (s : State) (n : Fin 8) (l : Line) : State := { s with lines := s.lines.set n l }

/-! ### Event flags -/

/-- The state with the sticky event flags changed by a function. -/
def State.updSticky (s : State) (f : StickyFlags → StickyFlags) : State :=
  { s with events := { s.events with sticky := f s.events.sticky } }

end Machine

end Sys2Proof
end

