-- ==== Sys2Proof/Machine/Boxes.lean ====
section
/-! DEFINITION. Boxes, the three tests and the bin cut (R3 to R8). -/

namespace Sys2Proof.Machine

/-- A box is well-formed when lo ≤ hi on every axis (R3). -/
def Box.wellFormed (b : Box) : Bool :=
  decide (b.xlo ≤ b.xhi) && decide (b.ylo ≤ b.yhi) && decide (b.zlo ≤ b.zhi)

/-- Two boxes intersect when their intervals overlap on all three axes, a shared bound counting (R4). -/
def Box.intersects (a b : Box) : Bool :=
  decide (a.xlo ≤ b.xhi) && decide (b.xlo ≤ a.xhi) &&
  decide (a.ylo ≤ b.yhi) && decide (b.ylo ≤ a.yhi) &&
  decide (a.zlo ≤ b.zhi) && decide (b.zlo ≤ a.zhi)

/-- Box p is contained in box q (R5). -/
def Box.containedIn (p q : Box) : Bool :=
  decide (q.xlo ≤ p.xlo) && decide (p.xhi ≤ q.xhi) &&
  decide (q.ylo ≤ p.ylo) && decide (p.yhi ≤ q.yhi) &&
  decide (q.zlo ≤ p.zlo) && decide (p.zhi ≤ q.zhi)

/-- Two boxes conflict under a clearance (R6). -/
def Box.conflicts (clearance : Nat) (a b : Box) : Bool :=
  decide (a.xlo ≤ b.xhi + clearance) && decide (b.xlo ≤ a.xhi + clearance) &&
  decide (a.ylo ≤ b.yhi + clearance) && decide (b.ylo ≤ a.yhi + clearance) &&
  decide (a.zlo ≤ b.zhi + clearance) && decide (b.zlo ≤ a.zhi + clearance)

/-- The bin volume (R2). -/
def binVolume : Box :=
  { xlo := 0, xhi := Config.binMaxXY, ylo := 0, yhi := Config.binMaxXY, zlo := 0, zhi := Config.binMaxZ }

/-- The bin cut of a box (R8): none where it is empty. -/
def Box.binCut (b : Box) : Option Box :=
  if b.xhi < 0 ∨ Config.binMaxXY < b.xlo ∨ b.yhi < 0 ∨ Config.binMaxXY < b.ylo ∨
      b.zhi < 0 ∨ Config.binMaxZ < b.zlo then none
  else some
    { xlo := max b.xlo 0, xhi := min b.xhi Config.binMaxXY
      ylo := max b.ylo 0, yhi := min b.yhi Config.binMaxXY
      zlo := max b.zlo 0, zhi := min b.zhi Config.binMaxZ }

/-- A bin part, which may be empty, intersects a box; an empty one intersects no box (R4). -/
def partIntersects (part : Option Box) (b : Box) : Bool :=
  match part with
  | none => false
  | some p => p.intersects b

end Sys2Proof.Machine
end

