-- ==== Sys2Proof/Machine/Operands.lean ====
section
/-! DEFINITION. What the bytes and two-byte fields of a frame mean: enumerated fields with their codes (section 9.4),
signed and unsigned fields (R185), and the clamps of the settings loads. -/

namespace Sys2Proof.Machine

/-- An arm argument: 0 is A, 1 is B, any other value no arm (section 9.4). -/
def armOf (b : Byte) : Option Arm :=
  match b.toNat with
  | 0 => some .a
  | 1 => some .b
  | _ => none

/-- A class byte: 0 is NORMAL, 1 is URGENT (R50). -/
def classOf (b : Byte) : Option ClaimClass :=
  match b.toNat with
  | 0 => some .normal
  | 1 => some .urgent
  | _ => none

/-- A profile byte: 0 is FULL, 1 is REDUCED (R106). -/
def profileOf (b : Byte) : Option ProfileName :=
  match b.toNat with
  | 0 => some .full
  | 1 => some .reduced
  | _ => none

/-- A forced profile byte: 0 is NONE, 1 is FULL, 2 is REDUCED (R109). -/
def forcedOf (b : Byte) : Option (Option ProfileName) :=
  match b.toNat with
  | 0 => some none
  | 1 => some (some .full)
  | 2 => some (some .reduced)
  | _ => none

/-- A geometry byte: 0 is G64, 1 is G32, 2 is G16 (R149). -/
def geometryOf (b : Byte) : Option Geometry :=
  match b.toNat with
  | 0 => some .g64
  | 1 => some .g32
  | 2 => some .g16
  | _ => none

/-- A group byte: 1, 2 or 3 (R155). -/
def groupOf (b : Byte) : Option Group :=
  match b.toNat with
  | 1 => some .g1
  | 2 => some .g2
  | 3 => some .g3
  | _ => none

/-- A map code byte: 0 is open, 1 to 3 a group (R145, R150). -/
def mapCodeOf (b : Byte) : Option (Option Group) :=
  match b.toNat with
  | 0 => some none
  | 1 => some (some .g1)
  | 2 => some (some .g2)
  | 3 => some (some .g3)
  | _ => none

/-- GROUP_SET's value byte: 0 is clear, 1 is set (R155). -/
def flagValueOf (b : Byte) : Option Bool :=
  match b.toNat with
  | 0 => some false
  | 1 => some true
  | _ => none

/-- A line byte: 0 to 7 (R165). -/
def lineOf (b : Byte) : Option (Fin 8) :=
  if h : b.toNat < 8 then some ⟨b.toNat, h⟩ else none

/-- A function byte: the eleven codes of R164. -/
def functionOf (b : Byte) : Option LineFunction :=
  match b.toNat with
  | 0 => some .unused
  | 1 => some (.guardIn .g1)
  | 2 => some (.guardIn .g2)
  | 3 => some (.guardIn .g3)
  | 4 => some .estopIn
  | 5 => some (.permitMirror .a)
  | 6 => some (.permitMirror .b)
  | 7 => some .alertMirror
  | 8 => some (.waitOut .a)
  | 9 => some (.waitOut .b)
  | 10 => some .generalOut
  | _ => none

/-- A polarity byte: 0 is ACTIVE_HIGH, 1 is ACTIVE_LOW (R165). -/
def polarityOf (b : Byte) : Option Polarity :=
  match b.toNat with
  | 0 => some .activeHigh
  | 1 => some .activeLow
  | _ => none

/-- REPORT's profile request is the lowest bit of the argument byte; the other seven bits are ignored (R100). -/
def requestOf (arg : Byte) : ProfileName := if arg.getLsbD 0 then .reduced else .full

/-- A box as a frame carries it, its bounds signed (R2, R185). -/
def boxOf (r : RawBox) : Box :=
  { xlo := r.xlo.toInt, xhi := r.xhi.toInt, ylo := r.ylo.toInt, yhi := r.yhi.toInt,
    zlo := r.zlo.toInt, zhi := r.zhi.toInt }

/-- The box check of R38, which MAP_FILL's checks 3 and 4 share (R150): lo ≤ hi as sent on every axis, and then the
bin cut, which must not be empty. -/
def checkBox (b : Box) : Option Box := if b.wellFormed then b.binCut else none

/-- A value beyond a range becomes the nearer end ('Clamping' of spec/00_scope.md). -/
def clampInt (lo hi x : Int) : Int := max lo (min hi x)

/-- A count beyond a range becomes the nearer end. -/
def clampNat (lo hi x : Nat) : Nat := max lo (min hi x)

/-- LOAD_CAL's fields as sent, signed, marked loaded (R10). -/
def calibrationSent (c s ox oy oz rxy rz : Half) : Calibration :=
  { c := c.toInt, s := s.toInt, ox := ox.toInt, oy := oy.toInt, oz := oz.toInt, rxy := rxy.toInt, rz := rz.toInt,
    loaded := true }

/-- The calibration record after clamping (R10). -/
def Calibration.clamped (r : Calibration) : Calibration :=
  { r with c := clampInt (-16384) 16384 r.c, s := clampInt (-16384) 16384 r.s,
           rxy := clampInt 0 1023 r.rxy, rz := clampInt 0 1023 r.rz }

/-- A calibration record's rotation terms are valid (R11): |c² + s² − 268,435,456| ≤ 4,194,304. -/
def Calibration.valid (r : Calibration) : Bool :=
  decide ((r.c * r.c + r.s * r.s - 268435456).natAbs ≤ 4194304)

/-- LOAD_PROFILE's fields as sent, unsigned (R106). -/
def profileSent (decel react cap : Half) : Profile :=
  { decel := decel.toNat, react := react.toNat, cap := cap.toNat }

/-- The profile record after clamping (R106). -/
def Profile.clamped (r : Profile) : Profile :=
  { decel := max r.decel 500, react := min r.react 255, cap := min r.cap 4095 }

/-- The named profile of an arm's pair (R106). -/
def ProfilePair.get (v : ProfilePair) : ProfileName → Profile
  | .full => v.full
  | .reduced => v.reduced

/-- The pair with the named profile replaced. -/
def ProfilePair.set (v : ProfilePair) (n : ProfileName) (x : Profile) : ProfilePair :=
  match n with
  | .full => { v with full := x }
  | .reduced => { v with reduced := x }

/-- The timing set after clamping (R192): a code above 7 becomes 7, T_entry or T_wait of 0 becomes 1, C above 1023
becomes 1023, a quota of 0 becomes 1 and one above 16 becomes 16. -/
def timingClamped (code entry wait : Byte) (clearance : Half) (qa qb : Byte) : Timing :=
  { reportCode := if h : code.toNat < 8 then ⟨code.toNat, h⟩ else 7
    entrySteps := max entry.toNat 1
    waitSteps := max wait.toNat 1
    clearance := min clearance.toNat 1023
    quota := { a := clampNat 1 16 qa.toNat, b := clampNat 1 16 qb.toNat } }

/-- LOAD_TIMING's clamping changed some field (R192). -/
def timingChanged (code entry wait : Byte) (clearance : Half) (qa qb : Byte) : Bool :=
  decide (7 < code.toNat) || decide (entry.toNat = 0) || decide (wait.toNat = 0) || decide (1023 < clearance.toNat) ||
  decide (qa.toNat = 0 ∨ 16 < qa.toNat) || decide (qb.toNat = 0 ∨ 16 < qb.toNat)

/-- T_report in ms for each code (R132). -/
def reportTimeout : Fin 8 → Nat
  | 0 => 2
  | 1 => 3
  | 2 => 4
  | 3 => 6
  | 4 => 8
  | 5 => 12
  | 6 => 16
  | 7 => 24

/-- T_report in ms as the timing set stands (R132). -/
def State.reportMs (s : State) : Nat := reportTimeout s.timing.reportCode

/-- T_entry in ms as the timing set stands (R79). -/
def State.entryMs (s : State) : Nat := 10 * s.timing.entrySteps

/-- T_wait in ms as the timing set stands (R63). -/
def State.waitMs (s : State) : Nat := 10 * s.timing.waitSteps

end Sys2Proof.Machine
end

