-- ==== Sys2Proof/Machine/KeepOutMap.lean ====
section
/-! DEFINITION. The keep-out map: cells, the touch test, the map's one write, and group activity (R145 to R156). -/

namespace Sys2Proof.Machine

/-- Cells on x, which is also the number on y (R145). -/
def Geometry.nxy : Geometry → Nat
  | .g64 => 64
  | .g32 => 32
  | .g16 => 16

/-- Layers on z (R145). -/
def Geometry.nz : Geometry → Nat
  | .g64 => 1
  | .g32 => 4
  | .g16 => 16

/-- The cell edge on x and y, in dmm (R145). -/
def Geometry.edgeXY : Geometry → Nat
  | .g64 => 128
  | .g32 => 256
  | .g16 => 512

/-- The cell edge on z, in dmm (R145). -/
def Geometry.edgeZ : Geometry → Nat
  | .g64 => 2048
  | .g32 => 512
  | .g16 => 128

/-- The cell index of a cell by its three indices (R146). -/
def cellIndex (g : Geometry) (ix iy iz : Nat) : Nat := ix + g.nxy * (iy + g.nxy * iz)

/-- floor(lo / E) to floor(hi / E) on one axis, for bounds inside the bin (R147). -/
def indexRange (lo hi : Int) (edge : Nat) : List Nat :=
  List.range' (lo.toNat / edge) (hi.toNat / edge + 1 - lo.toNat / edge)

/-- The cells that a box inside the bin touches, by rising cell index (R147). -/
def touchedCells (g : Geometry) (b : Box) : List Nat :=
  (indexRange b.zlo b.zhi g.edgeZ).flatMap fun iz =>
    (indexRange b.ylo b.yhi g.edgeXY).flatMap fun iy =>
      (indexRange b.xlo b.xhi g.edgeXY).map fun ix => cellIndex g ix iy iz

/-- Whether an index lies in the range of R147 on one axis. -/
def inIndexRange (i : Nat) (lo hi : Int) (edge : Nat) : Bool :=
  decide (lo.toNat / edge ≤ i) && decide (i ≤ hi.toNat / edge)

/-- Whether a box inside the bin touches the cell with index `i` (R146, R147). -/
def touchesCell (g : Geometry) (b : Box) (i : Nat) : Bool :=
  inIndexRange (i % g.nxy) b.xlo b.xhi g.edgeXY &&
  inIndexRange (i / g.nxy % g.nxy) b.ylo b.yhi g.edgeXY &&
  inIndexRange (i / (g.nxy * g.nxy)) b.zlo b.zhi g.edgeZ

/-- The code of a cell, none for an open one: what the list holds for it, and open where it lists nothing (R145). -/
def cellCode : List (Nat × Group) → Nat → Option Group
  | [], _ => none
  | (j, g) :: rest, i => if j = i then some g else cellCode rest i

/-- A cell takes a code; the list keeps its canonical form, and a cell made open leaves it. -/
def writeCell (i : Nat) (code : Option Group) : List (Nat × Group) → List (Nat × Group)
  | [] =>
    match code with
    | none => []
    | some g => [(i, g)]
  | (j, h) :: rest =>
    if j < i then (j, h) :: writeCell i code rest
    else
      match code with
      | none => if j = i then rest else (j, h) :: rest
      | some g => if j = i then (i, g) :: rest else (i, g) :: (j, h) :: rest

/-- Every cell of a list takes a code (R150). -/
def fillCells (code : Option Group) (touched : List Nat) (cells : List (Nat × Group)) : List (Nat × Group) :=
  touched.foldr (fun i m => writeCell i code m) cells

/-- The canonical form of the map's cells, each index above `low` where there is a bound. -/
def cellsRiseFrom : Nat → List (Nat × Group) → Bool
  | _, [] => true
  | low, (j, _) :: rest => decide (low ≤ j) && decide (j < Config.numCells) && cellsRiseFrom (j + 1) rest

/-- The canonical form of the map's cells: strictly rising indices, all below 4096. An open cell is never listed,
since an entry holds a group. -/
def KeepOut.wf (k : KeepOut) : Bool := cellsRiseFrom 0 k.cells

/-- A box touches group g (R148): some cell that it touches holds code g. -/
def KeepOut.touchesGroup (k : KeepOut) (b : Box) (g : Group) : Bool :=
  k.cells.any fun c => c.2 == g && touchesCell k.geometry b c.1

/-- Some general line with function GUARD_IN of group g has an active filtered level (R154). -/
def State.groupLineActive (s : State) (g : Group) : Bool :=
  allLines.any fun n => (s.line n).func == .guardIn g && (s.line n).filtered

/-- Group g is active while its supervisor flag is set or a line of its own is active (R154). -/
def State.groupActive (s : State) (g : Group) : Bool := s.keepOut.flags.get g || s.groupLineActive g

/-- The active groups that a box touches (R148). -/
def State.activeGroupsTouched (s : State) (b : Box) : List Group :=
  allGroups.filter fun g => s.groupActive g && s.keepOut.touchesGroup b g

/-- The e-stop is active while the filtered level of any ESTOP_IN line is active (R168). -/
def State.estopActive (s : State) : Bool :=
  allLines.any fun n => (s.line n).func == .estopIn && (s.line n).filtered

/-- A bin part, which may be empty, touches some active group: the INTRUSION indication (R114). -/
def State.partIntrudes (s : State) (part : Option Box) : Bool :=
  match part with
  | none => false
  | some b => !(s.activeGroupsTouched b).isEmpty

/-- A bin part, which may be empty, touches group g (R130, R148). -/
def State.partTouches (s : State) (part : Option Box) (g : Group) : Bool :=
  match part with
  | none => false
  | some b => s.keepOut.touchesGroup b g

end Sys2Proof.Machine
end

