-- ==== Sys2Proof/Machine/Flags.lean ====
section
/-! DEFINITION. The sixteen event flags, ALERT and the permits (R142, R172, R198 to R200). -/

namespace Sys2Proof.Machine

/-- PERMIT_P is high (R142): exactly while arm P is in RUN, and low while the part is held in reset (R172). -/
def State.permitHigh (s : State) (p : Arm) : Bool := !s.inReset && (s.armState p == .run)

/-- Some guard group is active: the GROUP_ACTIVE condition (R154). -/
def State.anyGroupActive (s : State) : Bool := allGroups.any s.groupActive

/-- Arm P is STOPPED or LOST: the condition under which HALT_MS_P counts (R201). -/
def State.halted (s : State) (p : Arm) : Bool := s.armState p == .stopped || s.armState p == .lost

/-- The sixteen event flags, bit 0 first (section 9.4, R198): the sticky flags as held, the level flags as their
conditions stand. -/
def State.flagsWord (s : State) : Half :=
  let f := s.events.sticky
  BitVec.ofBoolListLE
    [f.stop.a, f.stop.b, f.lost.a, f.lost.b, f.linkErr.a, f.linkErr.b, f.linkErrCell, f.lapse, f.waitExpired,
     f.revoked, f.noticeLost.a, f.noticeLost.b, s.estopActive, s.anyGroupActive, !s.waitList.isEmpty,
     s.mode == .config]

/-- ALERT is driven low while a set flag is unmasked (R199); it is released while the part is held in reset (R172). -/
def State.alertLow (s : State) : Bool := !s.inReset && (s.flagsWord &&& ~~~s.events.mask) != 0

/-- STOP_P is set (R126, R135). -/
def State.flagStop (s : State) (p : Arm) : State := s.updSticky fun f => { f with stop := f.stop.set p true }

/-- LOST_P is set (R133). -/
def State.flagLost (s : State) (p : Arm) : State := s.updSticky fun f => { f with lost := f.lost.set p true }

/-- LAPSE is set (R80). -/
def State.flagLapse (s : State) : State := s.updSticky fun f => { f with lapse := true }

/-- WAIT_EXPIRED is set (R63). -/
def State.flagWaitExpired (s : State) : State := s.updSticky fun f => { f with waitExpired := true }

/-- REVOKED is set (R158). -/
def State.flagRevoked (s : State) : State := s.updSticky fun f => { f with revoked := true }

/-- NOTICE_LOST_P is set (R182). -/
def State.flagNoticeLost (s : State) (p : Arm) : State :=
  s.updSticky fun f => { f with noticeLost := f.noticeLost.set p true }

/-- LINK_ERR of a link is set (R178). -/
def State.flagLinkErr (s : State) (link : Link) : State :=
  match link with
  | .arm p => s.updSticky fun f => { f with linkErr := f.linkErr.set p true }
  | .cell => s.updSticky fun f => { f with linkErrCell := true }

/-- A named sticky flag clears unless its persisting condition holds (R200). -/
def keepFlag (flag named persists : Bool) : Bool := flag && (!named || persists)

/-- CLEAR_EVENTS' effect (R200): each named sticky flag clears unless its persisting condition holds; only STOP_x (arm
in STOPPED) and LOST_x (arm in LOST) have one (R198). -/
def State.clearFlags (s : State) (named : Half) : State :=
  s.updSticky fun f =>
    { stop := { a := keepFlag f.stop.a (named.getLsbD 0) (s.armState .a == .stopped)
                b := keepFlag f.stop.b (named.getLsbD 1) (s.armState .b == .stopped) }
      lost := { a := keepFlag f.lost.a (named.getLsbD 2) (s.armState .a == .lost)
                b := keepFlag f.lost.b (named.getLsbD 3) (s.armState .b == .lost) }
      linkErr := { a := keepFlag f.linkErr.a (named.getLsbD 4) false
                   b := keepFlag f.linkErr.b (named.getLsbD 5) false }
      linkErrCell := keepFlag f.linkErrCell (named.getLsbD 6) false
      lapse := keepFlag f.lapse (named.getLsbD 7) false
      waitExpired := keepFlag f.waitExpired (named.getLsbD 8) false
      revoked := keepFlag f.revoked (named.getLsbD 9) false
      noticeLost := { a := keepFlag f.noticeLost.a (named.getLsbD 10) false
                      b := keepFlag f.noticeLost.b (named.getLsbD 11) false } }

end Sys2Proof.Machine
end

