-- ==== Sys2Proof/Machine/ClaimTable.lean ====
section
/-! DEFINITION. The Claim Table: what a slot holds, screening, the wait list, retirement, the re-screen walk, entry
and exit marking, and the parts that group activity and lost arms play in it (chapters 2 to 4, R158). -/

namespace Sys2Proof.Machine

/-! ### What a slot holds -/

/-- The claim in a slot, where it is not FREE (R27). -/
def SlotBody.claim : SlotBody → Option ClaimData
  | .free => none
  | .waiting c _ _ => some c
  | .granted c _ => some c
  | .occupied c => some c
  | .releasing c => some c

/-- The claim in a slot, where it is live: GRANTED, OCCUPIED or RELEASING (R29). -/
def SlotBody.live : SlotBody → Option ClaimData
  | .free => none
  | .waiting _ _ _ => none
  | .granted c _ => some c
  | .occupied c => some c
  | .releasing c => some c

/-- The claim in a slot, where it is WAITING. -/
def SlotBody.waitingClaim : SlotBody → Option ClaimData
  | .waiting c _ _ => some c
  | _ => none

/-- The state code of a slot (section 9.4). -/
def SlotBody.state : SlotBody → ClaimState
  | .free => .free
  | .waiting _ _ _ => .waiting
  | .granted _ _ => .granted
  | .occupied _ => .occupied
  | .releasing _ => .releasing

/-- The remaining time of a slot's running timer in ms, and 0 where none runs (R41, R43). -/
def SlotBody.remaining : SlotBody → Nat
  | .waiting _ left _ => left
  | .granted _ left => left
  | _ => 0

/-- The optional claim is one of arm P's. -/
def ownedBy (p : Arm) (c : Option ClaimData) : Bool :=
  match c with
  | none => false
  | some c => c.owner == p

/-- Slot k holds a claim of arm P. -/
def State.holdsClaim (s : State) (p : Arm) (k : Fin 24) : Bool := ownedBy p (s.body k).claim

/-- Slot k holds a live claim of arm P (R29). -/
def State.holdsLive (s : State) (p : Arm) (k : Fin 24) : Bool := ownedBy p (s.body k).live

/-- Slot k holds a WAITING claim of arm P. -/
def State.holdsWaiting (s : State) (p : Arm) (k : Fin 24) : Bool := ownedBy p (s.body k).waitingClaim

/-- Slot k is FREE. -/
def State.isFree (s : State) (k : Fin 24) : Bool := (s.body k).claim.isNone

/-- Arm P's claims in ascending slot order (R44). -/
def State.claimsOf (s : State) (p : Arm) : List (Fin 24) := allSlots.filter (s.holdsClaim p)

/-- Arm P's count (R35). -/
def State.countOf (s : State) (p : Arm) : Nat := (s.claimsOf p).length

/-- Arm P has a WAITING claim: the condition of WAIT_P_OUT and WAIT_MS_P (R41). -/
def State.hasWaiting (s : State) (p : Arm) : Bool := allSlots.any (s.holdsWaiting p)

/-- The lowest-numbered FREE slot, where there is one (R34, R37). -/
def State.firstFree (s : State) : Option (Fin 24) := allSlots.find? s.isFree

/-- Some single live claim of arm P contains a box (R5, R113). -/
def State.liveClaimContains (s : State) (p : Arm) (b : Box) : Bool :=
  allSlots.any fun k =>
    match (s.body k).live with
    | none => false
    | some c => c.owner == p && b.containedIn c.box

/-! ### Screening -/

/-- Slot k holds a claim of the other arm that blocks a candidate of arm P with this box (R53): a conflicting live
claim, or a conflicting WAITING claim that stands ahead of the candidate. -/
def State.blocksCandidate (s : State) (p : Arm) (box : Box) (ahead : Fin 24 → Bool) (k : Fin 24) : Bool :=
  match s.body k with
  | .free => false
  | .waiting c _ _ => c.owner == p.other && c.box.conflicts s.timing.clearance box && ahead k
  | .granted c _ => c.owner == p.other && c.box.conflicts s.timing.clearance box
  | .occupied c => c.owner == p.other && c.box.conflicts s.timing.clearance box
  | .releasing c => c.owner == p.other && c.box.conflicts s.timing.clearance box

/-- Screening of a candidate of arm P (R53, R55). -/
def State.screen (s : State) (p : Arm) (box : Box) (ahead : Fin 24 → Bool) : Blockers :=
  { slots := allSlots.filter (s.blocksCandidate p box ahead), groups := s.activeGroupsTouched box }

/-- A blocker set is empty when it names no slot and no group. -/
def Blockers.isEmpty (b : Blockers) : Bool := b.slots.isEmpty && b.groups.isEmpty

/-- Whether the WAITING claim in slot k stands ahead of a new request of this class (R54): unless the request is URGENT
and the wait is NORMAL. -/
def State.aheadOfNew (s : State) (cls : ClaimClass) (k : Fin 24) : Bool :=
  match (s.body k).waitingClaim with
  | none => false
  | some c => !(cls == .urgent && c.cls == .normal)

/-! ### Blocker sets and the wait list -/

/-- A blocker set with a slot added, kept ascending. -/
def Blockers.addSlot (b : Blockers) (k : Fin 24) : Blockers :=
  { b with slots := allSlots.filter fun j => b.slots.contains j || j == k }

/-- A blocker set with a group added, kept ascending. -/
def Blockers.addGroup (b : Blockers) (g : Group) : Blockers :=
  { b with groups := allGroups.filter fun h => b.groups.contains h || h == g }

/-- The claim now kept in slot k for arm P joins the blocker set of each WAITING claim of the other arm whose box
conflicts with its box, where `behind` says that it blocks that wait (R58): always for a grant, and for an admission as
WAITING where the new claim stands ahead. -/
def State.joinBlockers (s : State) (p : Arm) (k : Fin 24) (box : Box) (behind : Fin 24 → Bool) : State :=
  s.mapBodies fun j b =>
    match b with
    | .waiting c left bl =>
      if c.owner = p.other ∧ c.box.conflicts s.timing.clearance box = true ∧ behind j = true then
        .waiting c left (bl.addSlot k)
      else .waiting c left bl
    | other => other

/-- An activated group joins the blocker set of each WAITING claim whose box touches it (R58, R158). -/
def State.joinGroup (s : State) (g : Group) : State :=
  s.mapBodies fun _ b =>
    match b with
    | .waiting c left bl =>
      if s.keepOut.touchesGroup c.box g then .waiting c left (bl.addGroup g) else .waiting c left bl
    | other => other

/-- A new entry of the wait list stands behind every entry of its own class or of a higher class (R57). -/
def State.insertWait (s : State) (cls : ClaimClass) (k : Fin 24) : List (Fin 24) :=
  s.waitList.takeWhile (s.aheadOfNew cls) ++ k :: s.waitList.dropWhile (s.aheadOfNew cls)

/-- The claim's place in the wait list, 0 at the front (R57); 0 where it is not in the list (R41). -/
def State.waitPosition (s : State) (k : Fin 24) : Nat :=
  if k ∈ s.waitList then s.waitList.idxOf k else 0

/-! ### Notices -/

/-- A notice joins the back of arm P's queue; one that finds 6 notices there is dropped, and NOTICE_LOST is set at the
link and in the Event Unit (R180, R182). -/
def State.queueNotice (s : State) (p : Arm) (n : Notice) : State :=
  let l := s.link p
  if l.queue.length < Config.noticeCapacity then s.setLink p { l with queue := l.queue ++ [n] }
  else (s.setLink p { l with noticeLost := true }).flagNoticeLost p

/-! ### Retirement -/

/-- Steps 1 to 4 of R89: the slot becomes FREE, its gen advances from 15 to 0, its timer is gone with its state, and
the claim leaves the wait list. -/
def State.freeSlot (s : State) (k : Fin 24) : State :=
  { s.setSlot k { gen := (s.slot k).gen + 1, body := .free } with
    waitList := s.waitList.filter fun j => j != k }

/-- R118: a kept CONTAINED is judged again, with the recorded bin part, against arm P's remaining live claims: GRANTED,
OCCUPIED or RELEASING (R29). -/
def State.rejudgePlace (s : State) (p : Arm) : State :=
  let r := s.record p
  match r.last with
  | none => s
  | some l =>
    match l.verdict.place, l.binPart with
    | .contained, some b =>
      if s.liveClaimContains p b then s
      else s.setRecord p { r with last := some { l with verdict := { l.verdict with place := .escaped } } }
    | _, _ => s

/-- Retirement of the claim in slot k but for its re-screen (R89), with the notice that the cause names. `inReport`
says that the retirement is part of the taking of one of the owner's reports; the retirement of a live claim at any
other event brings the kept place up to date (R118). A FREE slot is left as it is. -/
def State.retire (s : State) (k : Fin 24) (notice : Option NoticeKind) (inReport : Bool) : State :=
  match (s.body k).claim with
  | none => s
  | some c =>
    let freed := s.freeSlot k
    let told :=
      match notice with
      | none => freed
      | some n => freed.queueNotice c.owner { kind := n, slot := k, gen := (s.slot k).gen }
    if (s.body k).live.isSome && !inReport then told.rejudgePlace c.owner else told

/-- Several claims retired in one event, each with its own notice, in the order of the list (R90). -/
def State.retireAll (s : State) (ks : List (Fin 24)) (notice : Option NoticeKind) (inReport : Bool) : State :=
  ks.foldl (fun t k => t.retire k notice inReport) s

/-! ### Re-screen -/

/-- A grant in a re-screen walk (R71): the claim leaves the wait list and becomes GRANTED, its lapse timer starts for
T_entry, and notice GRANTED is queued. -/
def State.grantWaiting (s : State) (k : Fin 24) (c : ClaimData) : State :=
  let s1 := s.setBody k (.granted c s.entryMs)
  let s2 := { s1 with waitList := s1.waitList.filter fun j => j != k }
  s2.queueNotice c.owner { kind := .granted, slot := k, gen := (s.slot k).gen }

/-- The re-screen walk over the rest of the wait list (R70); `ahead` holds the entries already visited that still
wait. -/
def rescreenFrom (ahead : List (Fin 24)) : List (Fin 24) → State → State
  | [], s => s
  | k :: rest, s =>
    match s.body k with
    | .waiting c left _ =>
      let bl := s.screen c.owner c.box (fun j => ahead.contains j)
      if bl.isEmpty then rescreenFrom ahead rest (s.grantWaiting k c)
      else rescreenFrom (ahead ++ [k]) rest (s.setBody k (.waiting c left bl))
    | _ => rescreenFrom ahead rest s

/-- The re-screen of the wait list, front to back (R69, R70). -/
def State.rescreen (s : State) : State := rescreenFrom [] s.waitList s

/-- The retirement of a list of claims with the one re-screen that follows the last of them; where none is retired
there is no re-screen (R69). -/
def State.retireAndRescreen (s : State) (ks : List (Fin 24)) (notice : Option NoticeKind) (inReport : Bool) : State :=
  if ks.isEmpty then s else (s.retireAll ks notice inReport).rescreen

/-! ### Entry and exit marking -/

/-- Entry marking (R75): every GRANTED claim of arm P whose box intersects the new bin part becomes OCCUPIED. -/
def State.markEntry (s : State) (p : Arm) (part : Option Box) : State :=
  s.mapBodies fun _ b =>
    match b with
    | .granted c left => if c.owner = p ∧ partIntersects part c.box = true then .occupied c else .granted c left
    | other => other

/-- The RELEASING claims of arm P that the new bin part has left (R87). -/
def State.exits (s : State) (p : Arm) (part : Option Box) : List (Fin 24) :=
  allSlots.filter fun k =>
    match s.body k with
    | .releasing c => c.owner == p && !partIntersects part c.box
    | _ => false

/-- Exit marking (R87) with the one re-screen of the report (R88). -/
def State.markExit (s : State) (p : Arm) (part : Option Box) : State :=
  s.retireAndRescreen (s.exits p part) (some .retired) true

/-! ### Handles -/

/-- The slot that a handle names (R39 step 3): the slot in 0..23, not FREE, and its gen equal to the handle's gen. -/
def State.findHandle (s : State) (slot gen : Byte) : Option (Fin 24) :=
  if h : slot.toNat < 24 then
    let k : Fin 24 := ⟨slot.toNat, h⟩
    if !s.isFree k && decide ((s.slot k).gen.val = gen.toNat) then some k else none
  else none

/-! ### Group activity and lost arms -/

/-- The GRANTED claims, of either arm, whose box touches group g (R157, R158). DEDUCED (log entry 19): the recorded bin
part plays no part here, although R105 says that an activation is judged against it for revocation. -/
def State.revoked (s : State) (g : Group) : List (Fin 24) :=
  allSlots.filter fun k =>
    match s.body k with
    | .granted c _ => s.keepOut.touchesGroup c.box g
    | _ => false

/-- The Claim Table's part in an activation (R158): GRANTED claims that touch the group are revoked, waits that touch it
gain it, and one re-screen follows where any claim was revoked. -/
def State.tableActivate (s : State) (g : Group) : State :=
  let ks := s.revoked g
  let gained := (s.retireAll ks (some .revoked) false).joinGroup g
  if ks.isEmpty then gained else gained.flagRevoked.rescreen

/-- Arm P's WAITING claims; there is at most one (R57). -/
def State.waitsOf (s : State) (p : Arm) : List (Fin 24) := allSlots.filter (s.holdsWaiting p)

/-- The Claim Table's part in an entry to LOST (R96): arm P's WAITING claim is retired with notice CANCELLED, followed
by a re-screen. -/
def State.cancelWaits (s : State) (p : Arm) : State := s.retireAndRescreen (s.waitsOf p) (some .cancelled) false

/-- The teardown of the table at entry to CONFIG (R47): every non-FREE slot becomes FREE and its gen advances. -/
def State.tearDown (s : State) : State :=
  { s with
    slots := Vector.ofFn fun k =>
      if s.isFree k then s.slot k else { gen := (s.slot k).gen + 1, body := .free }
    waitList := [] }

end Sys2Proof.Machine
end

