-- ==== Sys2Proof/Machine/ArmGuards.lean ====
section
/-! DEFINITION. The guard controllers: stops, LOST, the report timer, the resume handshake, and what changes of group
activity and of the e-stop do to both arms (chapter 6, R118, R159, R161, R168). -/

namespace Sys2Proof.Machine

/-- The cause set with one cause put in (R122). -/
def CauseSet.add (c : CauseSet) : StopCause → CauseSet
  | .envelope => { c with envelope := true }
  | .intrusion => { c with intrusion := true }
  | .overspeed => { c with overspeed := true }
  | .estop => { c with estop := true }
  | .supervisor => { c with supervisor := true }
  | .link => { c with link := true }

/-- The cause set with the causes of a list put in. -/
def CauseSet.addAll (c : CauseSet) (l : List StopCause) : CauseSet := l.foldl CauseSet.add c

/-- The stop causes that a verdict carries (R127). -/
def Verdict.causes (v : Verdict) : List StopCause :=
  (if v.place = .escaped then [.envelope] else []) ++ (if v.intrusion then [.intrusion] else []) ++
  (if v.overspeed then [.overspeed] else [])

/-- Entry to STOPPED from RUN (R126): the causes are put into the set, the permit falls with the state, the fresh flag
clears, both handshake flags are clear, the report timer keeps running, and STOP_P is set. -/
def State.enterStopped (s : State) (p : Arm) (causes : List StopCause) : State :=
  let g := s.guard p
  ((s.setGuard p
      { g with state := .stopped, causes := g.causes.addAll causes, resumeRequested := false,
               stopAcknowledged := false }).clearFresh p).flagStop p

/-- A stop event taken while the arm is STOPPED (R131): its cause is put into the set, and both handshake flags
clear. -/
def State.stopEvent (s : State) (p : Arm) (cause : StopCause) : State :=
  let g := s.guard p
  s.setGuard p { g with causes := g.causes.add cause, resumeRequested := false, stopAcknowledged := false }

/-- A stop event as each arm state takes it: RUN enters STOPPED, STOPPED takes it as R131 gives, and DETACHED and LOST
are not changed (R128, R129, R130). -/
def State.stopArm (s : State) (p : Arm) (cause : StopCause) : State :=
  match s.armState p with
  | .run => s.enterStopped p [cause]
  | .stopped => s.stopEvent p cause
  | .detached => s
  | .lost => s

/-- The five conditions of the resume check (R139). -/
def State.resumeFits (s : State) (p : Arm) : Bool :=
  !s.estopActive && (s.record p).fresh &&
    match (s.record p).last with
    | none => false
    | some l => (l.verdict.place == .outside || l.verdict.place == .contained) && !l.verdict.intrusion &&
        !l.verdict.overspeed

/-- A completed resume (R139): the arm enters RUN, its cause set emptied and both flags clear; the report timer and the
fresh flag stay as they are. -/
def State.completeResume (s : State) (p : Arm) : State :=
  s.setGuard p
    { s.guard p with state := .run, causes := CauseSet.empty, resumeRequested := false, stopAcknowledged := false }

/-- The resume check (R139, R140): made for a STOPPED arm with both handshake flags set, and completing the resume where
its conditions hold. -/
def State.resumeCheck (s : State) (p : Arm) : State :=
  let g := s.guard p
  if g.state = .stopped ∧ g.resumeRequested = true ∧ g.stopAcknowledged = true ∧ s.resumeFits p = true then
    s.completeResume p
  else s

/-- The report timer starts, or starts again for its full time (R132). -/
def State.startReportTimer (s : State) (p : Arm) : State :=
  s.setGuard p { s.guard p with reportTimer := some s.reportMs }

/-- Entry to LOST (R133): LINK joins the causes, both handshake flags and the fresh flag clear, the report timer stops,
LOST_P is set, and the Claim Table cancels the arm's wait (R96). -/
def State.enterLost (s : State) (p : Arm) : State :=
  let g := s.guard p
  (((s.setGuard p
      { state := .lost, causes := g.causes.add .link, resumeRequested := false, stopAcknowledged := false,
        reportTimer := none }).clearFresh p).flagLost p).cancelWaits p

/-- Step 1 of a report's taking (R101, R135): a LOST arm enters STOPPED with its causes kept, ESTOP added while the
e-stop is active, its report timer started and STOP_P set. -/
def State.returnFromLost (s : State) (p : Arm) : State :=
  let g := s.guard p
  if g.state = .lost then
    ((s.setGuard p
        { g with state := .stopped, causes := if s.estopActive then g.causes.add .estop else g.causes,
                 reportTimer := some s.reportMs }).clearFresh p).flagStop p
  else s

/-- Step 6 of a report's taking (R116, R127, R132, R140): the verdict goes to the guard controller. -/
def State.takeVerdict (s : State) (p : Arm) (v : Verdict) : State :=
  match s.armState p with
  | .detached => s
  | .run =>
    let t := s.startReportTimer p
    if v.causes.isEmpty then t else t.enterStopped p v.causes
  | .stopped => (s.startReportTimer p).resumeCheck p
  | .lost => s

/-! ### Group activity -/

/-- The kept INTRUSION of arm P's record is brought up to date (R118). -/
def State.keepIntrusion (s : State) (p : Arm) : State :=
  let r := s.record p
  match r.last with
  | none => s
  | some l =>
    s.setRecord p { r with last := some { l with verdict := { l.verdict with intrusion := s.partIntrudes l.binPart } } }

/-- A guard controller's part in the activation of group g (R130). -/
def State.guardActivate (s : State) (g : Group) (p : Arm) : State :=
  if s.partTouches (s.binPart p) g then s.stopArm p .intrusion else s

/-- The activation of group g, once its source has changed (R158, R159). In CONFIG no receiver finds anything to act on
(R162). -/
def State.groupActivated (s : State) (g : Group) : State :=
  if s.mode = .run then
    ((((s.tableActivate g).guardActivate g .a).guardActivate g .b).keepIntrusion .a).keepIntrusion .b
  else s

/-- The deactivation of a group, once its source has changed (R161): a re-screen, the kept INTRUSION of both records,
and the resume check of each arm. -/
def State.groupDeactivated (s : State) : State :=
  if s.mode = .run then
    ((((s.rescreen).keepIntrusion .a).keepIntrusion .b).resumeCheck .a).resumeCheck .b
  else s

/-- The change of group g's activity, where there is one, from before a source change to after it (R156). -/
def State.groupEvent (s : State) (before : Bool) (g : Group) : State :=
  if before = s.groupActive g then s
  else if before then s.groupDeactivated else s.groupActivated g

/-! ### The e-stop -/

/-- The change of the e-stop, where there is one, from before a source change to after it (R128, R168): activation is a
stop event for both arms, and release an occasion for their resume checks. -/
def State.estopEvent (s : State) (before : Bool) : State :=
  if before = s.estopActive then s
  else if before then (s.resumeCheck .a).resumeCheck .b
  else (s.stopArm .a .estop).stopArm .b .estop

/-- A change of a source of group activity or of the e-stop, with all that follows within its event (R156, R168). -/
def State.afterSources (s : State) (change : State → State) : State :=
  let t := change s
  let t1 := t.groupEvent (s.groupActive .g1) .g1
  let t2 := t1.groupEvent (s.groupActive .g2) .g2
  let t3 := t2.groupEvent (s.groupActive .g3) .g3
  t3.estopEvent s.estopActive

end Sys2Proof.Machine
end

