-- ==== Sys2Proof/Machine/Lines.lean ====
section
/-! DEFINITION. The Line Unit: directions, driven and raw levels, the filter, and the line record's writes
(chapter 8). -/

namespace Sys2Proof.Machine

/-- The functions that make a line an output (R164). -/
def LineFunction.isOutput : LineFunction → Bool
  | .unused => false
  | .guardIn _ => false
  | .estopIn => false
  | .permitMirror _ => true
  | .alertMirror => true
  | .waitOut _ => true
  | .generalOut => true

/-- The condition that an output line follows (R169). -/
def State.outputActive (s : State) (n : Fin 8) : Bool :=
  match (s.line n).func with
  | .unused => false
  | .guardIn _ => false
  | .estopIn => false
  | .permitMirror p => s.permitHigh p
  | .alertMirror => s.alertLow
  | .waitOut p => s.hasWaiting p
  | .generalOut => (s.line n).out

/-- The level of an active or inactive output under a polarity (R166). -/
def levelDriven (pol : Polarity) (active : Bool) : Level :=
  match pol, active with
  | .activeHigh, true => .high
  | .activeHigh, false => .low
  | .activeLow, true => .low
  | .activeLow, false => .high

/-- A level seen through a polarity (R166). -/
def levelActive (pol : Polarity) (l : Level) : Bool :=
  match pol with
  | .activeHigh => l == .high
  | .activeLow => l == .low

/-- The level that line n drives on its pin; none while its driver is off: for an input function (R164), and for every
line while the part is held in reset (R173). -/
def State.driven (s : State) (n : Fin 8) : Option Level :=
  if s.inReset || !(s.line n).func.isOutput then none
  else some (levelDriven (s.line n).polarity (s.outputActive n))

/-- The raw level at line n's pin (R163): the level driven, and the wiring's level where the driver is off or a wiring
fault holds the pin against it (R169). DESIGN CHOICE: log entry 2 (unsafe). -/
def State.rawLevel (s : State) (n : Fin 8) : Level :=
  match s.driven n with
  | none => (s.line n).wire
  | some l => if (s.line n).wireHolds then (s.line n).wire else l

/-- Line n's filtered level changes, or keeps its value, and its filter timer stops; every receiver acts within the
event (R168). -/
def State.setFiltered (s : State) (n : Fin 8) (active : Bool) : State :=
  s.afterSources fun t => t.setLine n { t.line n with filtered := active, filterTimer := none }

/-- The filter's answer to a raw level change of an input line, once the wiring's level is recorded (R167): a level
that differs from the filtered one starts the timer, or acts at once with D = 0; one that equals it stops the timer. -/
def State.filterRaw (s : State) (n : Fin 8) : State :=
  let l := s.line n
  if levelActive l.polarity l.wire = l.filtered then s.setLine n { l with filterTimer := none }
  else if l.debounce = 0 then s.setFiltered n (levelActive l.polarity l.wire)
  else s.setLine n { l with filterTimer := some l.debounce }

/-- SET_LINE's effect, once its checks pass (R165): the three settings are written, the filter timer stops, and the
filtered level is taken from the raw level under the new polarity for an input, and is inactive for an output. A wiring
fault at the pin lasts only while the line stays an output. -/
def State.configureLine (s : State) (n : Fin 8) (f : LineFunction) (pol : Polarity) (debounce : Nat) : State :=
  s.afterSources fun t =>
    let l := t.line n
    t.setLine n
      { l with func := f, polarity := pol, debounce := debounce, filterTimer := none
               filtered := !f.isOutput && levelActive pol l.wire
               wireHolds := l.wireHolds && f.isOutput }

/-- Each line named by a byte's bits takes a new general-output value, all at once (R170). -/
def State.writeOutputs (s : State) (f : Fin 8 → Bool → Bool) : State :=
  { s with lines := Vector.ofFn fun n => { s.line n with out := f n (s.line n).out } }

/-- All eight general-output values, GL0 first. -/
def State.outputs (s : State) : List Bool := allLines.map fun n => (s.line n).out

/-- What READ_LINES shows of each line (R171). -/
def State.readings (s : State) : List LineReading :=
  allLines.map fun n =>
    { raw := s.rawLevel n, filtered := (s.line n).filtered, func := (s.line n).func, out := (s.line n).out }

end Sys2Proof.Machine
end

