-- ==== Sys2Proof/Machine/Replies.lean ====
section
/-! DEFINITION. The bytes of the replies: codes (section 9.4) and layouts (sections 9.5 and 9.6, R185, R186). -/

namespace Sys2Proof.Machine

/-- Result codes (section 9.4). -/
def Result.code : Result → Nat
  | .ok => 0
  | .granted => 1
  | .waiting => 2
  | .retired => 3
  | .releasing => 4
  | .refusedMode => 5
  | .refusedState => 6
  | .notReady => 7
  | .badBox => 8
  | .badArg => 9
  | .quota => 10
  | .noSlot => 11
  | .waitBusy => 12
  | .cycle => 13
  | .staleHandle => 14
  | .notOwner => 15
  | .calBad => 16
  | .crcFail => 17
  | .unknownKind => 18

/-- Notice kind codes; 0 means no notice (section 9.4). -/
def NoticeKind.code : NoticeKind → Nat
  | .granted => 1
  | .lapsed => 2
  | .waitExpired => 3
  | .retired => 4
  | .revoked => 5
  | .purged => 6
  | .cancelled => 7

/-- Claim state codes. -/
def ClaimState.code : ClaimState → Nat
  | .free => 0
  | .waiting => 1
  | .granted => 2
  | .occupied => 3
  | .releasing => 4

/-- Arm codes. -/
def armCode : Arm → Nat
  | .a => 0
  | .b => 1

/-- Class codes. -/
def ClaimClass.code : ClaimClass → Nat
  | .normal => 0
  | .urgent => 1

/-- Arm state codes. -/
def ArmState.code : ArmState → Nat
  | .detached => 0
  | .run => 1
  | .stopped => 2
  | .lost => 3

/-- Place codes. -/
def Place.code : Place → Nat
  | .outside => 0
  | .contained => 1
  | .escaped => 2

/-- Profile codes. -/
def ProfileName.code : ProfileName → Nat
  | .full => 0
  | .reduced => 1

/-- Forced profile codes. -/
def forcedCode : Option ProfileName → Nat
  | none => 0
  | some .full => 1
  | some .reduced => 2

/-- Group numbers, and map codes with 0 for an open cell. -/
def mapCode : Option Group → Nat
  | none => 0
  | some .g1 => 1
  | some .g2 => 2
  | some .g3 => 3

/-- Line function codes (R164). -/
def LineFunction.code : LineFunction → Nat
  | .unused => 0
  | .guardIn g => mapCode (some g)
  | .estopIn => 4
  | .permitMirror p => 5 + armCode p
  | .alertMirror => 7
  | .waitOut p => 8 + armCode p
  | .generalOut => 10

/-- A byte from a number. -/
def byteOf (n : Nat) : Byte := BitVec.ofNat 8 n

/-- A set as a bit map, bit 0 first (R185). -/
def bitmap : List Bool → Nat
  | [] => 0
  | b :: rest => b.toNat + 2 * bitmap rest

/-- Two bytes of an unsigned value, low byte first. -/
def unsigned16 (n : Nat) : List Byte := halfBytes (BitVec.ofNat 16 n)

/-- Two bytes of a signed value, low byte first. -/
def signed16 (x : Int) : List Byte := halfBytes (BitVec.ofInt 16 x)

/-- Three bytes of an unsigned value, low byte first (R186). -/
def unsigned24 (n : Nat) : List Byte := [byteOf n, byteOf (n / 256), byteOf (n / 65536)]

/-- The twelve bytes of a box. -/
def Box.bytes (b : Box) : List Byte :=
  signed16 b.xlo ++ signed16 b.xhi ++ signed16 b.ylo ++ signed16 b.yhi ++ signed16 b.zlo ++ signed16 b.zhi

/-- The twelve bytes of a box that may be absent: 0 where it is. -/
def boxBytesOr0 : Option Box → List Byte
  | none => List.replicate 12 0
  | some b => b.bytes

/-- The verdict byte (section 9.5): place, INTRUSION, OVERSPEED. -/
def Verdict.byte (v : Verdict) : Byte := byteOf (v.place.code + 4 * v.intrusion.toNat + 8 * v.overspeed.toNat)

/-- The state byte of an arm reply (section 9.5). -/
def ArmStatus.byte (t : ArmStatus) : Byte :=
  byteOf (t.state.code + 8 * t.noticeLost.toNat + 16 * t.inUse.code + 32 * t.pending.toNat +
    64 * t.resumeRequested.toNat + 128 * t.stopAcknowledged.toNat)

/-- The stop cause set as a byte (section 9.4). -/
def CauseSet.byte (c : CauseSet) : Byte :=
  byteOf (bitmap [c.envelope, c.intrusion, c.overspeed, c.estop, c.supervisor, c.link])

/-- A LIST entry's two bytes (section 9.5). -/
def ListEntry.bytes (e : ListEntry) : List Byte := [byteOf (e.slot.val + 32 * e.state.code), byteOf e.gen.val]

/-- Bytes 3 to 5 of an arm reply (R181): 0 where there is no notice. -/
def noticeBytes : Option Notice → List Byte
  | none => [0, 0, 0]
  | some n => [byteOf n.kind.code, byteOf n.slot.val, byteOf n.gen.val]

/-- The data of an arm reply from byte 6 on (section 9.5). -/
def ArmData.bytes : ArmData → List Byte
  | .empty => []
  | .report v d => v.byte :: unsigned16 d
  | .handle slot gen => [byteOf slot.val, byteOf gen.val]
  | .query state cls remaining => [byteOf state.code, byteOf cls.code, byteOf remaining]
  | .list count entries => byteOf count :: entries.flatMap ListEntry.bytes

/-- The 16 bytes of an arm reply (section 9.5, R176). -/
def ArmReply.bytes (r : ArmReply) : List Byte :=
  sealFrame Config.armFrameSize ([r.echo, r.status.byte, byteOf r.result.code] ++ noticeBytes r.notice ++ r.data.bytes)

/-- The claim record of READ_CLAIM (section 9.6, R41, R186): absent fields read as 0. -/
def claimRecordBytes (slot : Fin 24) (record : Slot) (position : Nat) : List Byte :=
  let head := [byteOf slot.val, byteOf record.gen.val, byteOf record.body.state.code]
  let claim :=
    match record.body.claim with
    | none => List.replicate 14 0
    | some c => [byteOf (armCode c.owner), byteOf c.cls.code] ++ c.box.bytes
  let tail :=
    match record.body with
    | .waiting _ _ bl =>
        unsigned24 (bitmap (allSlots.map fun j => bl.slots.contains j)) ++
          [byteOf (bitmap (allGroups.map fun g => bl.groups.contains g)), byteOf position]
    | _ => List.replicate 5 0
  head ++ claim ++ unsigned16 record.body.remaining ++ tail

/-- The arm record of READ_ARM (section 9.6, R186). -/
def armRecordBytes (g : Guard) (r : ReportRecord) : List Byte :=
  let sPartEmpty :=
    match r.last with
    | none => false
    | some l => l.binPart.isNone
  [byteOf (g.state.code + 8 * forcedCode r.forced + 32 * r.requested.code + 64 * r.inUse.code + 128 * r.pending.toNat),
   g.causes.byte,
   byteOf (bitmap [g.resumeRequested, g.stopAcknowledged, r.fresh, r.last.isSome, sPartEmpty])] ++
  match r.last with
  | none => List.replicate 25 0
  | some l => l.verdict.byte :: (l.swept.bytes ++ boxBytesOr0 l.binPart)

/-- Items packed two to a byte, four bits each, the first in the low half (section 9.6). -/
def packNibbles : List Nat → List Byte
  | [] => []
  | [x] => [byteOf x]
  | x :: y :: rest => byteOf (x + 16 * y) :: packNibbles rest

/-- Items packed four to a byte, two bits each, the first in bits 0..1 (section 9.6). -/
def packPairs : List Nat → List Byte
  | w :: x :: y :: z :: rest => byteOf (w + 4 * x + 16 * y + 64 * z) :: packPairs rest
  | _ => []

/-- Flags of the three groups, group 1 first. -/
def PerGroup.flagList (v : PerGroup Bool) : List Bool := [v.g1, v.g2, v.g3]

/-- The data of a cell controller reply from byte 3 on (section 9.6). -/
def CellData.bytes : CellData → List Byte
  | .empty => []
  | .identity => [Config.partCode, Config.revision]
  | .calBad arm => [byteOf (armCode arm)]
  | .cellsTouched n => unsigned16 n
  | .mapCodes codes => packPairs (codes.map mapCode)
  | .groups flags activity => [byteOf (bitmap flags.flagList + 16 * bitmap activity.flagList)]
  | .purged n => [byteOf n]
  | .claimRecord slot record position => claimRecordBytes slot record position
  | .armRecord guard record => armRecordBytes guard record
  | .outputs values => [byteOf (bitmap values)]
  | .lines readings estop =>
      [byteOf (bitmap (readings.map fun r => r.raw == .high)), byteOf (bitmap (readings.map fun r => r.filtered))] ++
        packNibbles (readings.map fun r => r.func.code) ++
        [byteOf (bitmap (readings.map fun r => r.out)), byteOf estop.toNat]
  | .events flags mask => halfBytes flags ++ halfBytes mask
  | .counters errors accumulators =>
      errors.map byteOf ++ accumulators.flatMap (fun a => unsigned24 a.value) ++
        [byteOf (bitmap (accumulators.map fun a => a.enabled))]

/-- Byte 1 of a cell controller reply (section 9.6): mode, CLAMPED, ALERT. -/
def CellReply.flagByte (r : CellReply) : Byte :=
  byteOf (bitmap [r.mode == .run, r.clamped, r.alertLow])

/-- The 32 bytes of a cell controller reply (section 9.6, R176). -/
def CellReply.bytes (r : CellReply) : List Byte :=
  sealFrame Config.cellFrameSize ([r.echo, r.flagByte, byteOf r.result.code] ++ r.data.bytes)

/-- The bytes of a link's reply slot (R179). -/
def State.replyBytes (s : State) : Link → List Byte
  | .arm p => (s.link p).reply.bytes
  | .cell => s.cell.reply.bytes

end Sys2Proof.Machine
end

