-- ==== Sys2Proof/Machine/Links.lean ====
section
/-! DEFINITION. The links: building the reply to a frame taken (R177 to R181), failed frames (R178, R184), and the
frame in progress between the fall and the rise of a chip select (R175). -/

namespace Sys2Proof.Machine

/-! ### Replies -/

/-- The state byte's fields as they stand (section 9.5). -/
def State.armStatus (s : State) (p : Arm) : ArmStatus :=
  { state := s.armState p, noticeLost := (s.link p).noticeLost, inUse := (s.record p).inUse,
    pending := (s.record p).pending, resumeRequested := (s.guard p).resumeRequested,
    stopAcknowledged := (s.guard p).stopAcknowledged }

/-- The reply to a valid arm frame, built when the request's taking is complete: it shows the state that leaves, takes
the oldest notice from the queue, and replaces what the reply slot held (R177, R179, R181). -/
def State.replyArm (s : State) (p : Arm) (kind : Byte) (result : Result) (data : ArmData) : State :=
  let l := s.link p
  s.setLink p
    { l with
      reply := { echo := kind, status := s.armStatus p, result := result, notice := l.queue.head?, data := data }
      queue := l.queue.tail }

/-- The reply to a valid cell controller frame (R177). -/
def State.replyCell (s : State) (kind : Byte) (result : Result) (clamped : Bool) (data : CellData) : State :=
  { s with cell :=
      { s.cell with reply :=
          { echo := kind, mode := s.mode, clamped := clamped, alertLow := s.alertLow, result := result, data := data } } }

/-- What the owner of an arm request answers: the state after its effect, the result and the data. -/
structure Answer where
  state : State
  result : Result
  data : ArmData

/-- A refusal that changes nothing. -/
def refuse (s : State) (r : Result) : Answer := { state := s, result := r, data := .empty }

/-- The two gates of R177 in front of the owner of an arm request other than NOP and REPORT: in CONFIG it is answered
REFUSED_MODE, and for a LOST arm REFUSED_STATE. DEDUCED (log entry 18): a LOST arm's RELEASE is turned away here too, as
R39, R83, R134 and R177 say, although R120 speaks of one judged against the kept record. -/
def gateRequest (p : Arm) (owner : State → Answer) (s : State) : Answer :=
  if s.mode = .config then refuse s .refusedMode
  else if s.armState p = .lost then refuse s .refusedState
  else owner s

/-- A valid arm frame, taken as one event: the owner's effect, and then the reply. No frame is taken while the part is
held in reset (R173). -/
def takeArmFrame (p : Arm) (kind : Byte) (owner : State → Answer) (s : State) : Host.Outcome State Fault Refusal :=
  if s.inReset then .next s
  else
    let a := owner s
    .next (a.state.replyArm p kind a.result a.data)

/-- What the owner of a cell controller command answers. -/
structure CellAnswer where
  state : State
  result : Result
  clamped : Bool
  data : CellData

/-- A refusal that changes nothing. -/
def refuseCell (s : State) (r : Result) : CellAnswer := { state := s, result := r, clamped := false, data := .empty }

/-- OK with no data. -/
def okCell (s : State) : CellAnswer := { state := s, result := .ok, clamped := false, data := .empty }

/-- A command that is taken in CONFIG alone: in RUN it is answered REFUSED_MODE (section 10.2). -/
def configOnly (owner : State → CellAnswer) (s : State) : CellAnswer :=
  if s.mode = .config then owner s else refuseCell s .refusedMode

/-- A valid cell controller frame, taken as one event. No frame is taken while the part is held in reset (R173). -/
def takeCellFrame (kind : Byte) (owner : State → CellAnswer) (s : State) : Host.Outcome State Fault Refusal :=
  if s.inReset then .next s
  else
    let a := owner s
    .next (a.state.replyCell kind a.result a.clamped a.data)

/-- An event of a line, a timer or the time base, which has no reply; none happens while the part is held in reset
(R173). -/
def takeEvent (effect : State → State) (s : State) : Host.Outcome State Fault Refusal :=
  .next (if s.inReset then s else effect s)

/-! ### Failed frames -/

/-- The failure reply of an arm link (R178): the notice queue is not touched. -/
def State.failArm (s : State) (p : Arm) : State :=
  let l := s.link p
  s.setLink p
    { l with reply := { echo := 0, status := s.armStatus p, result := .crcFail, notice := none, data := .empty } }

/-- The failure reply of the Cell Controller Link (R178). -/
def State.failCell (s : State) : State := s.replyCell 0 .crcFail false .empty

/-- A link's error counter rises by one and stays at 15 once there (R184). -/
def State.countError (s : State) (link : Link) : State :=
  match link with
  | .arm p => s.setLink p { s.link p with errors := min ((s.link p).errors + 1) Config.linkErrorMax }
  | .cell => { s with cell := { s.cell with errors := min (s.cell.errors + 1) Config.linkErrorMax } }

/-- A failed frame (R178): the counter, the flag, and then the failure reply. -/
def State.failFrame (s : State) (link : Link) : State :=
  let t := (s.countError link).flagLinkErr link
  match link with
  | .arm p => t.failArm p
  | .cell => t.failCell

/-! ### The frame in progress -/

/-- The complete bytes received on a link since its chip select fell. -/
def State.incoming (s : State) : Link → Option (List Byte)
  | .arm p => (s.link p).incoming
  | .cell => s.cell.incoming

/-- The state with a link's frame in progress replaced. -/
def State.setIncoming (s : State) (link : Link) (x : Option (List Byte)) : State :=
  match link with
  | .arm p => s.setLink p { s.link p with incoming := x }
  | .cell => { s with cell := { s.cell with incoming := x } }

/-- Chip select falls: a frame begins (R175), but not while the part is held in reset (R173). -/
def State.selectFalls (s : State) (link : Link) : State :=
  if s.inReset then s else s.setIncoming link (some [])

/-- A complete byte is shifted in (R175). -/
def State.shiftIn (s : State) (link : Link) (b : Byte) : State :=
  match s.incoming link with
  | none => s
  | some f => s.setIncoming link (some (f ++ [b]))

/-- The byte that SDO shifts out beside the next byte shifted in (R175): the reply slot's, then 0x00; none while SDO is
high-impedance (R173, R174). DESIGN CHOICE: where chip select stays low across the end of a reset, the abandoned frame
shifts nothing out until chip select next falls; log entry 17. -/
def State.shiftOut (s : State) (link : Link) : Option Byte :=
  if s.inReset then none
  else
    match s.incoming link with
    | none => none
    | some f => some (byteAt (s.replyBytes link) f.length)

/-- Chip select rises: the frame is judged, and its command waits to be taken (R175, R177, R178). A frame that a reset
abandoned gives no command (R173). -/
def State.selectRises (s : State) (link : Link) : State :=
  match s.incoming link with
  | none => s
  | some f => { s.setIncoming link none with pending := s.pending ++ [decodeFrame link f] }

end Sys2Proof.Machine
end

