-- ==== Sys2Proof/Machine/ArmRequests.lean ====
section
/-! DEFINITION. The meanings of the arm link's frames that are no REPORT, and of the frames that no owner takes:
NOP, ATTACH, DETACH, CLAIM, RELEASE, CANCEL, QUERY, LIST, ACKSTOP, UNKNOWN_KIND, FRAME_FAILED. -/

namespace Sys2Proof.Machine

/-! ### The owners -/

/-- ATTACH's checks 3 to 6 (R123). -/
def State.attachFits (s : State) (p : Arm) : Bool :=
  (s.record p).fresh &&
  (match (s.record p).last with
   | none => false
   | some l => l.verdict.place == .outside && !l.verdict.overspeed) &&
  !s.estopActive

/-- ATTACH's owner (R123): the arm enters RUN and its report timer starts. -/
def attachOwner (p : Arm) (s : State) : Answer :=
  if s.armState p ≠ .detached then refuse s .refusedState
  else if !s.attachFits p then refuse s .notReady
  else
    { state := s.setGuard p { s.guard p with state := .run, reportTimer := some s.reportMs }
      result := .ok, data := .empty }

/-- DETACH's owner (R124): the arm enters DETACHED, its report timer stops and its fresh flag clears. -/
def detachOwner (p : Arm) (s : State) : Answer :=
  if s.armState p ≠ .run then refuse s .refusedState
  else if s.countOf p ≠ 0 then refuse s .refusedState
  else
    { state := (s.setGuard p { s.guard p with state := .detached, reportTimer := none }).clearFresh p
      result := .ok, data := .empty }

/-- The cycle condition (R65) for a candidate of arm P with this blocker set. -/
def State.cycleHolds (s : State) (p : Arm) (bl : Blockers) : Bool :=
  !bl.slots.isEmpty &&
  allSlots.any fun j =>
    match s.body j with
    | .waiting w _ wb => w.owner == p.other && wb.slots.any (s.holdsLive p)
    | _ => false

/-- A claim kept as GRANTED in slot k (R60): its lapse timer starts, and it joins the blocker set of the other arm's
conflicting wait (R58). -/
def State.keepGranted (s : State) (k : Fin 24) (c : ClaimData) : State :=
  (s.setBody k (.granted c s.entryMs)).joinBlockers c.owner k c.box fun _ => true

/-- A claim kept as WAITING in slot k (R67): its wait timer starts, it is inserted into the wait list (R57), and it
joins the blocker set of the other arm's conflicting wait where it stands ahead of it (R58). -/
def State.keepWaiting (s : State) (k : Fin 24) (c : ClaimData) (bl : Blockers) : State :=
  ({ s.setBody k (.waiting c s.waitMs bl) with waitList := s.insertWait c.cls k }).joinBlockers c.owner k c.box
    fun j => !s.aheadOfNew c.cls j

/-- The outcome of a CLAIM that passes its six checks, with the lowest FREE slot k (R52). -/
def decideClaim (s : State) (k : Fin 24) (c : ClaimData) : Answer :=
  let bl := s.screen c.owner c.box (s.aheadOfNew c.cls)
  if bl.isEmpty then { state := s.keepGranted k c, result := .granted, data := .handle k (s.slot k).gen }
  else if s.hasWaiting c.owner then refuse s .waitBusy
  else if s.cycleHolds c.owner bl then refuse s .cycle
  else { state := s.keepWaiting k c bl, result := .waiting, data := .handle k (s.slot k).gen }

/-- CLAIM's owner: checks 2 to 6 of R49, and then R52. -/
def claimOwner (p : Arm) (cls : Byte) (box : RawBox) (s : State) : Answer :=
  if s.armState p ≠ .run ∧ s.armState p ≠ .stopped then refuse s .refusedState
  else
    match classOf cls with
    | none => refuse s .badArg
    | some c =>
      match checkBox (boxOf box) with
      | none => refuse s .badBox
      | some b =>
        if s.timing.quota.get p ≤ s.countOf p then refuse s .quota
        else
          match s.firstFree with
          | none => refuse s .noSlot
          | some k => decideClaim s k { owner := p, cls := c, box := b }

/-- Steps 3 and 4 of R39 in front of what a handle's command does with its claim. -/
def withHandle (p : Arm) (slot gen : Byte) (s : State) (act : Fin 24 → ClaimData → Answer) : Answer :=
  match s.findHandle slot gen with
  | none => refuse s .staleHandle
  | some k =>
    match (s.body k).claim with
    | none => refuse s .staleHandle
    | some c => if c.owner = p then act k c else refuse s .notOwner

/-- RELEASE's outcome on slot k by the claim's state and the last bin part (R83). -/
def releaseSlot (p : Arm) (s : State) (k : Fin 24) (c : ClaimData) : Answer :=
  match s.body k with
  | .free => refuse s .staleHandle
  | .waiting _ _ _ => refuse s .refusedState
  | .releasing _ => { state := s, result := .releasing, data := .empty }
  | .granted _ _ | .occupied _ =>
    if partIntersects (s.binPart p) c.box then
      { state := s.setBody k (.releasing c), result := .releasing, data := .empty }
    else { state := s.retireAndRescreen [k] none false, result := .retired, data := .empty }

/-- RELEASE's owner (R83). -/
def releaseOwner (p : Arm) (slot gen : Byte) (s : State) : Answer :=
  withHandle p slot gen s (releaseSlot p s)

/-- CANCEL's owner (R66): step 5 of R39, and then the retirement of the WAITING claim. -/
def cancelOwner (p : Arm) (slot gen : Byte) (s : State) : Answer :=
  withHandle p slot gen s fun k _ =>
    if (s.body k).waitingClaim.isSome then
      { state := s.retireAndRescreen [k] none false, result := .retired, data := .empty }
    else refuse s .refusedState

/-- A remaining time in units of 10 ms, rounded up (R43). -/
def tensOfMs (ms : Nat) : Nat := (ms + 9) / 10

/-- QUERY's owner (R42). -/
def queryOwner (p : Arm) (slot gen : Byte) (s : State) : Answer :=
  withHandle p slot gen s fun k c =>
    { state := s, result := .ok, data := .query (s.body k).state c.cls (tensOfMs (s.body k).remaining) }

/-- The used entries of a LIST reply (R44): up to four of the arm's claims from the start index on. -/
def State.listEntries (s : State) (p : Arm) (start : Nat) : List ListEntry :=
  (((s.claimsOf p).drop start).take 4).map fun k =>
    { slot := k, state := (s.body k).state, gen := (s.slot k).gen }

/-- LIST's owner (R44, R45): the NOTICE_LOST indication clears. -/
def listOwner (p : Arm) (start : Byte) (s : State) : Answer :=
  { state := s.setLink p { s.link p with noticeLost := false }
    result := .ok
    data := .list (s.countOf p) (s.listEntries p start.toNat) }

/-- ACKSTOP's owner (R138): stop-acknowledged is set, and the resume check is made where resume is requested too. -/
def ackstopOwner (p : Arm) (s : State) : Answer :=
  if s.armState p ≠ .stopped then refuse s .refusedState
  else
    { state := (s.setGuard p { s.guard p with stopAcknowledged := true }).resumeCheck p
      result := .ok, data := .empty }

/-! ### The meanings -/

/-- NOP on an arm link (R177): answered OK in either mode and in every arm state. -/
def execNop (p : Arm) (s : State) : Host.Outcome State Fault Refusal :=
  takeArmFrame p 0x00 (fun t => { state := t, result := .ok, data := .empty }) s

/-- ATTACH (R123). -/
def execAttach (p : Arm) (s : State) : Host.Outcome State Fault Refusal :=
  takeArmFrame p 0x01 (gateRequest p (attachOwner p)) s

/-- DETACH (R124). -/
def execDetach (p : Arm) (s : State) : Host.Outcome State Fault Refusal :=
  takeArmFrame p 0x02 (gateRequest p (detachOwner p)) s

/-- CLAIM (R49 to R67). -/
def execClaim (p : Arm) (cls : Byte) (box : RawBox) (s : State) : Host.Outcome State Fault Refusal :=
  takeArmFrame p 0x04 (gateRequest p (claimOwner p cls box)) s

/-- RELEASE (R83). -/
def execRelease (p : Arm) (slot gen : Byte) (s : State) : Host.Outcome State Fault Refusal :=
  takeArmFrame p 0x05 (gateRequest p (releaseOwner p slot gen)) s

/-- CANCEL (R66). -/
def execCancel (p : Arm) (slot gen : Byte) (s : State) : Host.Outcome State Fault Refusal :=
  takeArmFrame p 0x06 (gateRequest p (cancelOwner p slot gen)) s

/-- QUERY (R42). -/
def execQuery (p : Arm) (slot gen : Byte) (s : State) : Host.Outcome State Fault Refusal :=
  takeArmFrame p 0x07 (gateRequest p (queryOwner p slot gen)) s

/-- LIST (R44). -/
def execList (p : Arm) (start : Byte) (s : State) : Host.Outcome State Fault Refusal :=
  takeArmFrame p 0x08 (gateRequest p (listOwner p start)) s

/-- ACKSTOP (R138). -/
def execAckstop (p : Arm) (s : State) : Host.Outcome State Fault Refusal :=
  takeArmFrame p 0x09 (gateRequest p (ackstopOwner p)) s

/-- A valid frame with a kind not defined for its link (R177): answered UNKNOWN_KIND in either mode and in every arm
state, with no other effect but the notice that an arm reply takes (R181). -/
def execUnknownKind (link : Link) (kind : Byte) (s : State) : Host.Outcome State Fault Refusal :=
  match link with
  | .arm p => takeArmFrame p kind (fun t => refuse t .unknownKind) s
  | .cell => takeCellFrame kind (fun t => refuseCell t .unknownKind) s

/-- A short frame, or one that fails its CRC (R178). -/
def execFrameFailed (link : Link) (s : State) : Host.Outcome State Fault Refusal :=
  takeEvent (fun t => t.failFrame link) s

end Sys2Proof.Machine
end

