-- ==== Sys2Proof/Machine/MapCommands.lean ====
section
/-! DEFINITION. The cell controller's map and group commands: SET_GEOMETRY, MAP_FILL, MAP_CLEAR, MAP_CURSOR, MAP_READ,
GROUP_SET (chapter 7). -/

namespace Sys2Proof.Machine

/-- SET_GEOMETRY's owner (R149): the geometry is put in force and every cell opens. -/
def setGeometryOwner (geometry : Byte) (s : State) : CellAnswer :=
  match geometryOf geometry with
  | none => refuseCell s .badArg
  | some g => okCell { s with keepOut := { s.keepOut with geometry := g, cells := [] } }

/-- MAP_FILL's owner: checks 2 to 4 of R150, and then every touched cell takes the code. -/
def mapFillOwner (code : Byte) (box : RawBox) (s : State) : CellAnswer :=
  match mapCodeOf code with
  | none => refuseCell s .badArg
  | some c =>
    match checkBox (boxOf box) with
    | none => refuseCell s .badBox
    | some b =>
      let touched := touchedCells s.keepOut.geometry b
      { state := { s with keepOut := { s.keepOut with cells := fillCells c touched s.keepOut.cells } }
        result := .ok
        clamped := decide (b ≠ boxOf box)
        data := .cellsTouched touched.length }

/-- MAP_CLEAR's owner (R151). -/
def mapClearOwner (s : State) : CellAnswer := okCell { s with keepOut := { s.keepOut with cells := [] } }

/-- MAP_CURSOR's owner (R152): a value above 4095 is clamped. -/
def mapCursorOwner (index : Half) (s : State) : CellAnswer :=
  if h : index.toNat < 4096 then okCell { s with cell := { s.cell with mapCursor := ⟨index.toNat, h⟩ } }
  else { state := { s with cell := { s.cell with mapCursor := 4095 } }, result := .ok, clamped := true, data := .empty }

/-- The codes of the 64 cells from the map cursor on, cell 0 following cell 4095 (R153). -/
def State.mapWindow (s : State) : List (Option Group) :=
  (List.range 64).map fun i => cellCode s.keepOut.cells ((s.cell.mapCursor.val + i) % 4096)

/-- MAP_READ's owner (R153): the cursor advances by 64, modulo 4096. -/
def mapReadOwner (s : State) : CellAnswer :=
  { state := { s with cell := { s.cell with mapCursor := s.cell.mapCursor + 64 } }
    result := .ok, clamped := false, data := .mapCodes s.mapWindow }

/-- The activity of the three groups (R154). -/
def State.activities (s : State) : PerGroup Bool :=
  { g1 := s.groupActive .g1, g2 := s.groupActive .g2, g3 := s.groupActive .g3 }

/-- GROUP_SET's owner (R155): the supervisor flag takes the value, with the activation or deactivation that this makes
(R156). -/
def groupSetOwner (group value : Byte) (s : State) : CellAnswer :=
  match groupOf group, flagValueOf value with
  | some g, some v =>
      let t := s.afterSources fun u => { u with keepOut := { u.keepOut with flags := u.keepOut.flags.set g v } }
      { state := t, result := .ok, clamped := false, data := .groups t.keepOut.flags t.activities }
  | _, _ => refuseCell s .badArg

/-- SET_GEOMETRY (R149). -/
def execSetGeometry (geometry : Byte) (s : State) : Host.Outcome State Fault Refusal :=
  takeCellFrame 0x07 (configOnly (setGeometryOwner geometry)) s

/-- MAP_FILL (R150). -/
def execMapFill (code : Byte) (box : RawBox) (s : State) : Host.Outcome State Fault Refusal :=
  takeCellFrame 0x08 (configOnly (mapFillOwner code box)) s

/-- MAP_CLEAR (R151). -/
def execMapClear (s : State) : Host.Outcome State Fault Refusal :=
  takeCellFrame 0x09 (configOnly mapClearOwner) s

/-- MAP_CURSOR (R152). -/
def execMapCursor (index : Half) (s : State) : Host.Outcome State Fault Refusal :=
  takeCellFrame 0x0A (configOnly (mapCursorOwner index)) s

/-- MAP_READ (R153). -/
def execMapRead (s : State) : Host.Outcome State Fault Refusal :=
  takeCellFrame 0x0B mapReadOwner s

/-- GROUP_SET (R155). -/
def execGroupSet (group value : Byte) (s : State) : Host.Outcome State Fault Refusal :=
  takeCellFrame 0x0C (groupSetOwner group value) s

end Sys2Proof.Machine
end

