-- ==== Sys2Proof/Machine/Reads.lean ====
section
/-! DEFINITION. The cell controller's reads and its claim cursor: NOP, IDENT, SET_CURSOR, READ_CLAIM, READ_ARM,
READ_LINES, READ_EVENTS, READ_COUNTERS (section 10.3, R171, R200, R202). -/

namespace Sys2Proof.Machine

/-- OK with data read, the state unchanged. -/
def okRead (s : State) (data : CellData) : CellAnswer := { state := s, result := .ok, clamped := false, data := data }

/-- SET_CURSOR's owner (R194): a value above 23 is clamped. -/
def setCursorOwner (slot : Byte) (s : State) : CellAnswer :=
  if h : slot.toNat < 24 then okCell { s with cell := { s.cell with claimCursor := ⟨slot.toNat, h⟩ } }
  else { state := { s with cell := { s.cell with claimCursor := 23 } }, result := .ok, clamped := true, data := .empty }

/-- READ_CLAIM's owner (R194, R186): the record at the cursor, which then advances by one, from 23 to 0. -/
def readClaimOwner (s : State) : CellAnswer :=
  let k := s.cell.claimCursor
  { state := { s with cell := { s.cell with claimCursor := k + 1 } }
    result := .ok, clamped := false, data := .claimRecord k (s.slot k) (s.waitPosition k) }

/-- READ_ARM's owner (R195). -/
def readArmOwner (arm : Byte) (s : State) : CellAnswer :=
  match armOf arm with
  | none => refuseCell s .badArg
  | some p => okRead s (.armRecord (s.guard p) (s.record p))

/-- READ_COUNTERS' data (R202): the three link error counters and the four accumulators with their enables. -/
def State.counters (s : State) : CellData :=
  .counters [(s.link .a).errors, (s.link .b).errors, s.cell.errors]
    [s.events.waitMs.a, s.events.waitMs.b, s.events.haltMs.a, s.events.haltMs.b]

/-- NOP on the Cell Controller Link (R196). -/
def execCellNop (s : State) : Host.Outcome State Fault Refusal :=
  takeCellFrame 0x00 okCell s

/-- IDENT (R196). -/
def execIdent (s : State) : Host.Outcome State Fault Refusal :=
  takeCellFrame 0x01 (fun t => okRead t .identity) s

/-- SET_CURSOR (R194). -/
def execSetCursor (slot : Byte) (s : State) : Host.Outcome State Fault Refusal :=
  takeCellFrame 0x12 (setCursorOwner slot) s

/-- READ_CLAIM (R194). -/
def execReadClaim (s : State) : Host.Outcome State Fault Refusal :=
  takeCellFrame 0x13 readClaimOwner s

/-- READ_ARM (R195). -/
def execReadArm (arm : Byte) (s : State) : Host.Outcome State Fault Refusal :=
  takeCellFrame 0x14 (readArmOwner arm) s

/-- READ_LINES (R171). -/
def execReadLines (s : State) : Host.Outcome State Fault Refusal :=
  takeCellFrame 0x17 (fun t => okRead t (.lines t.readings t.estopActive)) s

/-- READ_EVENTS (R200). -/
def execReadEvents (s : State) : Host.Outcome State Fault Refusal :=
  takeCellFrame 0x18 (fun t => okRead t (.events t.flagsWord t.events.mask)) s

/-- READ_COUNTERS (R202). -/
def execReadCounters (s : State) : Host.Outcome State Fault Refusal :=
  takeCellFrame 0x1B (fun t => okRead t t.counters) s

end Sys2Proof.Machine
end

