-- ==== Sys2Proof/Machine/Envelope.lean ====
section
/-! DEFINITION. The Envelope Unit's arithmetic: from a report to its swept box and bin part (R13 to R24), and the
choice of the profile (R107). -/

namespace Sys2Proof.Machine

/-- A point of the bin frame. -/
structure Point where
  x : Int
  y : Int
  z : Int
deriving DecidableEq, Repr

/-- Division by 16384, rounded to nearest with halves away from zero (R16). -/
def roundQ14 (n : Int) : Int := n.sign * (((n.natAbs + 8192) / 16384 : Nat) : Int)

/-- Saturation to the working range (R17, R21). -/
def saturate (x : Int) : Int := max Config.workLo (min Config.workHi x)

/-- The speed of a report, clamped at 4095 (R13). -/
def clampSpeed (v : Nat) : Nat := min v Config.speedMax

/-- The tool point in the bin frame (R15, R16, R17). -/
def toolPoint (cal : Calibration) (xa ya za : Int) : Point :=
  { x := saturate (roundQ14 (cal.c * xa - cal.s * ya) + cal.ox)
    y := saturate (roundQ14 (cal.s * xa + cal.c * ya) + cal.oy)
    z := saturate (za + cal.oz) }

/-- Division rounded up; the divisor is never 0 where it is used (R14). -/
def ceilDiv (n d : Nat) : Nat := (n + d - 1) / d

/-- The braking term t1 = ceil(5·v² / A) (R18). -/
def brakingTerm (prof : Profile) (v : Nat) : Nat := ceilDiv (5 * (v * v)) prof.decel

/-- The reaction term t2 = ceil(v·Tr / 100) (R19). -/
def reactionTerm (prof : Profile) (v : Nat) : Nat := ceilDiv (v * prof.react) 100

/-- The stopping distance d = min(t1 + t2, 4095) (R20). -/
def stoppingDistance (prof : Profile) (v : Nat) : Nat :=
  min (brakingTerm prof v + reactionTerm prof v) Config.stopMax

/-- The swept box S about a tool point (R21). -/
def sweptBox (cal : Calibration) (pt : Point) (d : Nat) : Box :=
  let exy := cal.rxy + d
  let ez := cal.rz + d
  { xlo := saturate (pt.x - exy), xhi := saturate (pt.x + exy)
    ylo := saturate (pt.y - exy), yhi := saturate (pt.y + exy)
    zlo := saturate (pt.z - ez), zhi := saturate (pt.z + ez) }

/-- The target of a report's profile choice: the forced profile, or the report's own request where none is forced
(R107). -/
def profileTarget (forced : Option ProfileName) (request : ProfileName) : ProfileName :=
  match forced with
  | some f => f
  | none => request

/-- The profile used for a report, which is also the profile in use after it, and the pending flag after it (R107). -/
def chooseProfile (inUse target : ProfileName) (v reducedCap : Nat) : ProfileName × Bool :=
  match inUse, target with
  | _, .full => (.full, false)
  | .reduced, .reduced => (.reduced, false)
  | .full, .reduced => if v ≤ reducedCap then (.reduced, false) else (.full, true)

end Sys2Proof.Machine
end

