-- ==== Sys2Proof/Machine/Reports.lean ====
section
/-! DEFINITION. REPORT: the taking of a position report, whole and in its order (R99 to R120). -/

namespace Sys2Proof.Machine

/-- The verdict of a report of arm P with this bin part and speed, under the cap of the profile used (R112 to R115). -/
def State.formVerdict (s : State) (p : Arm) (part : Option Box) (v cap : Nat) : Verdict :=
  { place :=
      match part with
      | none => .outside
      | some b => if s.liveClaimContains p b then .contained else .escaped
    intrusion := s.partIntrudes part
    overspeed := decide (cap < v) }

/-- What the Envelope Unit computes for one report (R24): the profile used with the pending flag (R107), the stopping
distance, and what the report record takes. -/
structure Envelope where
  used : ProfileName
  pending : Bool
  d : Nat
  last : LastReport

/-- Steps 2 to 4 of a report's taking (R101): profile choice, envelope arithmetic and verdict, with the speed clamped. -/
def State.envelope (s : State) (p : Arm) (request : ProfileName) (xa ya za : Int) (speed : Nat) : Envelope :=
  let v := clampSpeed speed
  let pair := s.profiles.get p
  let r := s.record p
  let choice := chooseProfile r.inUse (profileTarget r.forced request) v pair.reduced.cap
  let prof := pair.get choice.1
  let cal := s.cal.get p
  let d := stoppingDistance prof v
  let swept := sweptBox cal (toolPoint cal xa ya za) d
  let part := swept.binCut
  { used := choice.1, pending := choice.2, d := d
    last := { swept := swept, binPart := part, verdict := s.formVerdict p part v prof.cap } }

/-- Step 5 of a report's taking (R101, R105): the record is replaced, the forced profile kept, and the fresh flag set. -/
def State.recordReport (s : State) (p : Arm) (request : ProfileName) (e : Envelope) : State :=
  s.setRecord p
    { s.record p with requested := request, inUse := e.used, pending := e.pending, last := some e.last, fresh := true }

/-- An accepted REPORT, whole (R101): the return from LOST, the envelope, the record, the verdict's hand-off, entry and
exit marking with their re-screen, and what the reply carries (R119). -/
def reportOwner (p : Arm) (request : ProfileName) (xa ya za : Int) (speed : Nat) (s : State) : Answer :=
  let s1 := s.returnFromLost p
  let e := s1.envelope p request xa ya za speed
  let s2 := s1.recordReport p request e
  let s3 := s2.takeVerdict p e.last.verdict
  let s4 := s3.markEntry p e.last.binPart
  { state := s4.markExit p e.last.binPart, result := .ok, data := .report e.last.verdict e.d }

/-- REPORT (R99): refused in CONFIG, accepted in every arm state of device RUN. -/
def execReport (p : Arm) (arg : Byte) (xa ya za v : Half) (s : State) : Host.Outcome State Fault Refusal :=
  takeArmFrame p 0x03
    (fun t =>
      if t.mode = .config then refuse t .refusedMode
      else reportOwner p (requestOf arg) xa.toInt ya.toInt za.toInt v.toNat t) s

end Sys2Proof.Machine
end

