-- ==== Sys2Proof/Machine/Resets.lean ====
section
/-! DEFINITION. Device reset: RESETN_ASSERT, RESETN_RELEASE, POWER_ON_RESET, SUPPLY_BELOW_POWER_ON_THRESHOLD
(R173, R197). -/

namespace Sys2Proof.Machine

/-- A reset abandons the frames in progress (R173). -/
def State.abandonFrames (s : State) : State :=
  ((s.setIncoming (.arm .a) none).setIncoming (.arm .b) none).setIncoming .cell none

/-- The end of a reset: every piece of state takes its reset value, and each line's filtered level is taken from its raw
level under ACTIVE_HIGH (R167, R173, R197). The wiring's levels are the world's, and the events waiting stay. -/
def State.endReset (s : State) : State :=
  { State.reset with
    lines := Vector.ofFn fun n => Line.resetAt (s.line n).wire
    pending := s.pending }

/-- RESETN falls (R173): frames are abandoned; while it is low nothing is taken, no timer runs, the permits are low,
ALERT is released and the lines' drivers are off (`State.inReset`). -/
def execResetnAssert (s : State) : Host.Outcome State Fault Refusal :=
  .next { s.abandonFrames with resetnLow := true }

/-- RESETN rises (R173): the reset ends, unless the supply still holds the part in its power-on reset. -/
def execResetnRelease (s : State) : Host.Outcome State Fault Refusal :=
  .next (if s.supplyLow then { s with resetnLow := false } else s.endReset)

/-- The supply rises above the power-on threshold (R173): the power-on reset pulse ends, unless RESETN still holds the
part in reset. -/
def execPowerOnReset (s : State) : Host.Outcome State Fault Refusal :=
  .next (if s.resetnLow then { s.abandonFrames with supplyLow := false } else s.endReset)

/-- The supply falls below the power-on threshold (R172, R173), which begins the power-on reset pulse. -/
def execSupplyBelowPowerOnThreshold (s : State) : Host.Outcome State Fault Refusal :=
  .next { s.abandonFrames with supplyLow := true }

end Sys2Proof.Machine
end

