-- ==== Sys2Proof/Machine/Settings.lean ====
section
/-! DEFINITION. The cell controller's mode changes and settings: SET_MODE, LOAD_CAL, LOAD_PROFILE, LOAD_TIMING,
SET_LINE (chapter 10, R165). -/

namespace Sys2Proof.Machine

/-! ### Device modes -/

/-- Arm P's calibration record passes the commit check (R11). -/
def State.calibrated (s : State) (p : Arm) : Bool := (s.cal.get p).loaded && (s.cal.get p).valid

/-- The first arm whose record fails the commit check, arm A examined first (R11, R188). -/
def State.commitFailure (s : State) : Option Arm :=
  if !s.calibrated .a then some .a else if !s.calibrated .b then some .b else none

/-- A report record at entry to CONFIG: invalid, with the forced profile kept (R104). -/
def ReportRecord.atConfig (r : ReportRecord) : ReportRecord :=
  { requested := .full, forced := r.forced, inUse := .full, pending := false, last := none, fresh := false }

/-- An arm link at entry to CONFIG: queue emptied and NOTICE_LOST cleared, the reply slot kept (R183, R190). -/
def ArmLink.atConfig (l : ArmLink) : ArmLink := { l with queue := [], noticeLost := false }

/-- Entry to CONFIG, one event over every block (R189). -/
def State.enterConfig (s : State) : State :=
  { s.tearDown with
    mode := .config
    links := { a := s.links.a.atConfig, b := s.links.b.atConfig }
    guards := { a := Guard.reset, b := Guard.reset }
    records := { a := s.records.a.atConfig, b := s.records.b.atConfig } }

/-- SET_MODE CONFIG's owner (R189). -/
def enterConfigOwner (s : State) : CellAnswer :=
  if s.mode = .config then okCell s
  else if s.armState .a = .run ∨ s.armState .b = .run then refuseCell s .refusedState
  else okCell s.enterConfig

/-- SET_MODE RUN's owner (R188): the commit check. -/
def enterRunOwner (s : State) : CellAnswer :=
  if s.mode = .run then okCell s
  else
    match s.commitFailure with
    | some p => { state := s, result := .calBad, clamped := false, data := .calBad p }
    | none => okCell { s with mode := .run }

/-- SET_MODE by its target byte (R188, R189): 0 CONFIG, 1 RUN, any other value BAD_ARG. -/
def setModeOwner (target : Byte) (s : State) : CellAnswer :=
  match target.toNat with
  | 0 => enterConfigOwner s
  | 1 => enterRunOwner s
  | _ => refuseCell s .badArg

/-! ### Settings -/

/-- OK after a settings load, with CLAMPED where some value was clamped. -/
def okClamped (s : State) (clamped : Bool) : CellAnswer :=
  { state := s, result := .ok, clamped := clamped, data := .empty }

/-- LOAD_CAL's owner (R10, R193). -/
def loadCalOwner (arm : Byte) (sent : Calibration) (s : State) : CellAnswer :=
  match armOf arm with
  | none => refuseCell s .badArg
  | some p => okClamped { s with cal := s.cal.set p sent.clamped } (decide (sent.clamped ≠ sent))

/-- LOAD_PROFILE's owner (R106, R193). -/
def loadProfileOwner (arm profile : Byte) (sent : Profile) (s : State) : CellAnswer :=
  match armOf arm, profileOf profile with
  | some p, some n =>
      okClamped { s with profiles := s.profiles.set p ((s.profiles.get p).set n sent.clamped) }
        (decide (sent.clamped ≠ sent))
  | _, _ => refuseCell s .badArg

/-- LOAD_TIMING's owner (R192). -/
def loadTimingOwner (code entry wait : Byte) (clearance : Half) (qa qb : Byte) (s : State) : CellAnswer :=
  okClamped { s with timing := timingClamped code entry wait clearance qa qb }
    (timingChanged code entry wait clearance qa qb)

/-- SET_LINE's owner: checks 2 to 4 of R165, and then its effect; a debounce above 15 is clamped. -/
def setLineOwner (line func polarity debounce : Byte) (s : State) : CellAnswer :=
  match lineOf line, functionOf func, polarityOf polarity with
  | some n, some f, some pol =>
      okClamped (s.configureLine n f pol (min debounce.toNat 15)) (decide (15 < debounce.toNat))
  | _, _, _ => refuseCell s .badArg

/-! ### The meanings -/

/-- SET_MODE with a target byte other than 0 (R188): 1 makes the commit check, any other value is BAD_ARG. -/
def execSetModeRun (target : Byte) (s : State) : Host.Outcome State Fault Refusal :=
  takeCellFrame 0x02 (setModeOwner target) s

/-- SET_MODE CONFIG (R189). -/
def execSetModeConfig (s : State) : Host.Outcome State Fault Refusal :=
  takeCellFrame 0x02 (setModeOwner 0) s

/-- LOAD_CAL (R10). -/
def execLoadCal (arm : Byte) (c sn ox oy oz rxy rz : Half) (s : State) : Host.Outcome State Fault Refusal :=
  takeCellFrame 0x03 (configOnly (loadCalOwner arm (calibrationSent c sn ox oy oz rxy rz))) s

/-- LOAD_PROFILE (R106). -/
def execLoadProfile (arm profile : Byte) (decel react cap : Half) (s : State) : Host.Outcome State Fault Refusal :=
  takeCellFrame 0x04 (configOnly (loadProfileOwner arm profile (profileSent decel react cap))) s

/-- LOAD_TIMING (R192). -/
def execLoadTiming (code entry wait : Byte) (clearance : Half) (qa qb : Byte) (s : State) :
    Host.Outcome State Fault Refusal :=
  takeCellFrame 0x05 (configOnly (loadTimingOwner code entry wait clearance qa qb)) s

/-- SET_LINE (R165). -/
def execSetLine (line func polarity debounce : Byte) (s : State) : Host.Outcome State Fault Refusal :=
  takeCellFrame 0x06 (configOnly (setLineOwner line func polarity debounce)) s

end Sys2Proof.Machine
end

