-- ==== Sys2Proof/Machine/Supervision.lean ====
section
/-! DEFINITION. The cell controller's supervisory commands: FORCE_PROFILE, STOP, RESUME, PURGE_ARM, PURGE_CLAIM,
SET_OUT, TOGGLE_OUT, CLEAR_EVENTS, SET_MASK, CLEAR_COUNTERS, SET_ACC_ENABLE. -/

namespace Sys2Proof.Machine

/-- FORCE_PROFILE's owner (R109). -/
def forceProfileOwner (arm value : Byte) (s : State) : CellAnswer :=
  match armOf arm, forcedOf value with
  | some p, some f => okCell (s.setRecord p { s.record p with forced := f })
  | _, _ => refuseCell s .badArg

/-- STOP's owner (R129). -/
def stopOwner (arm : Byte) (s : State) : CellAnswer :=
  match armOf arm with
  | none => refuseCell s .badArg
  | some p =>
    match s.armState p with
    | .run | .stopped => okCell (s.stopArm p .supervisor)
    | .detached | .lost => refuseCell s .refusedState

/-- RESUME's owner (R137). -/
def resumeOwner (arm : Byte) (s : State) : CellAnswer :=
  match armOf arm with
  | none => refuseCell s .badArg
  | some p =>
    if s.armState p = .stopped then okCell ((s.setGuard p { s.guard p with resumeRequested := true }).resumeCheck p)
    else refuseCell s .refusedState

/-- OK with the number of claims purged. -/
def okPurged (s : State) (n : Nat) : CellAnswer := { state := s, result := .ok, clamped := false, data := .purged n }

/-- PURGE_ARM's owner (R92). -/
def purgeArmOwner (arm : Byte) (s : State) : CellAnswer :=
  match armOf arm with
  | none => refuseCell s .badArg
  | some p =>
    if s.armState p = .run then refuseCell s .refusedState
    else okPurged (s.retireAndRescreen (s.claimsOf p) (some .purged) false) (s.countOf p)

/-- PURGE_CLAIM's owner (R93). -/
def purgeClaimOwner (slot gen : Byte) (s : State) : CellAnswer :=
  match s.findHandle slot gen with
  | none => refuseCell s .staleHandle
  | some k =>
    match (s.body k).claim with
    | none => refuseCell s .staleHandle
    | some c =>
      if s.armState c.owner = .run then refuseCell s .refusedState
      else okPurged (s.retireAndRescreen [k] (some .purged) false) 1

/-- OK with all eight general-output values as they stand after the command (R170). -/
def okOutputs (s : State) : CellAnswer := { state := s, result := .ok, clamped := false, data := .outputs s.outputs }

/-- SET_OUT's owner (R170). -/
def setOutOwner (lines values : Byte) (s : State) : CellAnswer :=
  okOutputs (s.writeOutputs fun n old => if lines.getLsbD n then values.getLsbD n else old)

/-- TOGGLE_OUT's owner (R170). -/
def toggleOutOwner (lines : Byte) (s : State) : CellAnswer :=
  okOutputs (s.writeOutputs fun n old => if lines.getLsbD n then !old else old)

/-- SET_MASK's owner (R199). -/
def setMaskOwner (mask : Half) (s : State) : CellAnswer := okCell { s with events := { s.events with mask := mask } }

/-- An arm link's error counter is written to 0 where the set names it (R184, R202). -/
def State.clearErrors (s : State) (p : Arm) (named : Bool) : State :=
  if named then s.setLink p { s.link p with errors := 0 } else s

/-- An accumulator is written to 0 where the set names it; its enable is left (R202). -/
def Accumulator.clearIf (a : Accumulator) (named : Bool) : Accumulator := if named then { a with value := 0 } else a

/-- CLEAR_COUNTERS' owner (R202): bits 0..2 name the link error counters A, B and C, bits 3..6 the accumulators. -/
def clearCountersOwner (set : Byte) (s : State) : CellAnswer :=
  let s1 := (s.clearErrors .a (set.getLsbD 0)).clearErrors .b (set.getLsbD 1)
  let s2 := if set.getLsbD 2 then { s1 with cell := { s1.cell with errors := 0 } } else s1
  okCell
    { s2 with events :=
        { s2.events with
          waitMs := { a := s2.events.waitMs.a.clearIf (set.getLsbD 3), b := s2.events.waitMs.b.clearIf (set.getLsbD 4) }
          haltMs := { a := s2.events.haltMs.a.clearIf (set.getLsbD 5), b := s2.events.haltMs.b.clearIf (set.getLsbD 6) } } }

/-- SET_ACC_ENABLE's owner (R202): all four enables are replaced. -/
def setAccEnableOwner (enables : Byte) (s : State) : CellAnswer :=
  okCell
    { s with events :=
        { s.events with
          waitMs := { a := { s.events.waitMs.a with enabled := enables.getLsbD 0 }
                      b := { s.events.waitMs.b with enabled := enables.getLsbD 1 } }
          haltMs := { a := { s.events.haltMs.a with enabled := enables.getLsbD 2 }
                      b := { s.events.haltMs.b with enabled := enables.getLsbD 3 } } } }

/-- FORCE_PROFILE (R109). -/
def execForceProfile (arm value : Byte) (s : State) : Host.Outcome State Fault Refusal :=
  takeCellFrame 0x0D (forceProfileOwner arm value) s

/-- STOP (R129). -/
def execStop (arm : Byte) (s : State) : Host.Outcome State Fault Refusal :=
  takeCellFrame 0x0E (stopOwner arm) s

/-- RESUME (R137). -/
def execResume (arm : Byte) (s : State) : Host.Outcome State Fault Refusal :=
  takeCellFrame 0x0F (resumeOwner arm) s

/-- PURGE_ARM (R92). -/
def execPurgeArm (arm : Byte) (s : State) : Host.Outcome State Fault Refusal :=
  takeCellFrame 0x10 (purgeArmOwner arm) s

/-- PURGE_CLAIM (R93). -/
def execPurgeClaim (slot gen : Byte) (s : State) : Host.Outcome State Fault Refusal :=
  takeCellFrame 0x11 (purgeClaimOwner slot gen) s

/-- SET_OUT (R170). -/
def execSetOut (lines values : Byte) (s : State) : Host.Outcome State Fault Refusal :=
  takeCellFrame 0x15 (setOutOwner lines values) s

/-- TOGGLE_OUT (R170). -/
def execToggleOut (lines : Byte) (s : State) : Host.Outcome State Fault Refusal :=
  takeCellFrame 0x16 (toggleOutOwner lines) s

/-- CLEAR_EVENTS (R200). -/
def execClearEvents (flags : Half) (s : State) : Host.Outcome State Fault Refusal :=
  takeCellFrame 0x19 (fun t => okCell (t.clearFlags flags)) s

/-- SET_MASK (R199). -/
def execSetMask (mask : Half) (s : State) : Host.Outcome State Fault Refusal :=
  takeCellFrame 0x1A (setMaskOwner mask) s

/-- CLEAR_COUNTERS (R202). -/
def execClearCounters (set : Byte) (s : State) : Host.Outcome State Fault Refusal :=
  takeCellFrame 0x1C (clearCountersOwner set) s

/-- SET_ACC_ENABLE (R202). -/
def execSetAccEnable (enables : Byte) (s : State) : Host.Outcome State Fault Refusal :=
  takeCellFrame 0x1D (setAccEnableOwner enables) s

end Sys2Proof.Machine
end

