-- ==== Sys2Proof/Machine/TimeEvents.lean ====
section
/-! DEFINITION. The events of the timers, the time base and the general lines: LAPSE, WAIT_EXPIRY,
REPORT_TIMER_EXPIRY, FILTER_TIMER_EXPIRY, RAW_LEVEL_CHANGE, ACCUMULATOR_STEP. A timer expires once its full time has
run and not before, and a stopped timer does not expire (R1): an expiry event that finds its timer stopped, or with
milliseconds left, finds nothing to do. A timer whose full time has run expires by an event of its own, or at the latest
at the next millisecond (R1, R43). -/

namespace Sys2Proof.Machine

/-- The lapse of the claim in slot k (R80), its lapse timer having run its full time. -/
def State.lapseSlot (s : State) (k : Fin 24) : State :=
  match s.body k with
  | .granted _ 0 => s.flagLapse.retireAndRescreen [k] (some .lapsed) false
  | _ => s

/-- The wait expiry of the claim in slot k (R63), its wait timer having run its full time. -/
def State.expireWait (s : State) (k : Fin 24) : State :=
  match s.body k with
  | .waiting _ 0 _ => s.flagWaitExpired.retireAndRescreen [k] (some .waitExpired) false
  | _ => s

/-- The expiry of arm P's report timer (R133), the timer having run its full time. -/
def State.expireReportTimer (s : State) (p : Arm) : State :=
  if (s.guard p).reportTimer = some 0 ∧ (s.armState p = .run ∨ s.armState p = .stopped) then s.enterLost p else s

/-- The expiry of line n's filter timer (R167), the timer having run its full time: the filtered level takes the value
of the raw level. -/
def State.expireFilter (s : State) (n : Fin 8) : State :=
  if (s.line n).filterTimer = some 0 then s.setFiltered n (levelActive (s.line n).polarity (s.rawLevel n)) else s

/-- The raw level at line n's pin becomes `level` (R167). On an input line the filter answers a change. On an output
line a level other than the one driven is a wiring fault that holds the pin (R169), and the level driven ends it.
While the part is held in reset only the wiring's level moves (R173). -/
def State.changeRaw (s : State) (n : Fin 8) (level : Level) : State :=
  let l := s.line n
  if s.inReset then s.setLine n { l with wire := level }
  else if l.func.isOutput then s.setLine n { l with wire := level, wireHolds := decide (s.driven n ≠ some level) }
  else if l.wire = level then s
  else (s.setLine n { l with wire := level }).filterRaw n

/-- One millisecond off the timer that a slot runs. -/
def SlotBody.tick : SlotBody → SlotBody
  | .waiting c left bl => .waiting c (left - 1) bl
  | .granted c left => .granted c (left - 1)
  | .free => .free
  | .occupied c => .occupied c
  | .releasing c => .releasing c

/-- One millisecond off a timer, where it runs. -/
def tickTimer (t : Option Nat) : Option Nat :=
  match t with
  | none => none
  | some n => some (n - 1)

/-- An accumulator at a millisecond of the time base (R201). -/
def Accumulator.step (a : Accumulator) (holds : Bool) : Accumulator :=
  if a.enabled && holds then { a with value := min (a.value + 1) Config.accumulatorMax } else a

/-- The time base moves on by a millisecond: each enabled accumulator whose condition holds rises by one (R201), and
every running timer has one millisecond less left (R1, R43). DEDUCED: log entry 3. -/
def State.tick (s : State) : State :=
  { s.mapBodies (fun _ b => b.tick) with
    guards := { a := { s.guards.a with reportTimer := tickTimer s.guards.a.reportTimer }
                b := { s.guards.b with reportTimer := tickTimer s.guards.b.reportTimer } }
    lines := Vector.ofFn fun n => { s.line n with filterTimer := tickTimer (s.line n).filterTimer }
    events :=
      { s.events with
        waitMs := { a := s.events.waitMs.a.step (s.hasWaiting .a), b := s.events.waitMs.b.step (s.hasWaiting .b) }
        haltMs := { a := s.events.haltMs.a.step (s.halted .a), b := s.events.haltMs.b.step (s.halted .b) } } }

/-- The slots whose lapse timer has run its full time and has not expired yet (R43). -/
def State.dueLapses (s : State) : List (Fin 24) :=
  allSlots.filter fun k =>
    match s.body k with
    | .granted _ 0 => true
    | _ => false

/-- The slots whose wait timer has run its full time and has not expired yet (R43). -/
def State.dueWaits (s : State) : List (Fin 24) :=
  allSlots.filter fun k =>
    match s.body k with
    | .waiting _ 0 _ => true
    | _ => false

/-- The arms whose report timer has run its full time and has not expired yet (R132). -/
def State.dueReports (s : State) : List Arm := allArms.filter fun p => (s.guard p).reportTimer = some 0

/-- The lines whose filter timer has run its full time and has not expired yet (R167). -/
def State.dueFilters (s : State) : List (Fin 8) := allLines.filter fun n => (s.line n).filterTimer = some 0

/-- The expiries that were due in `due` are taken, one event after another: lapses, waits, report timers, filter timers,
each kind in ascending order. An expiry that an earlier one has stopped finds nothing to do. DESIGN CHOICE: that order;
log entry 5. -/
def State.takeExpiries (due s : State) : State :=
  let lapsed := due.dueLapses.foldl State.lapseSlot s
  let waited := due.dueWaits.foldl State.expireWait lapsed
  let reported := due.dueReports.foldl State.expireReportTimer waited
  due.dueFilters.foldl State.expireFilter reported

/-- A millisecond of the internal time base (R1, R201). A timer that had run its full time before this millisecond, and
that no event has stopped, set again or let expire since, expires now: T + 1 ms is the latest (R1). DEDUCED: log
entries 3 and 5. -/
def State.millisecond (s : State) : State := s.takeExpiries s.tick

/-- LAPSE (R80). -/
def execLapse (k : Fin 24) (s : State) : Host.Outcome State Fault Refusal :=
  takeEvent (fun t => t.lapseSlot k) s

/-- WAIT_EXPIRY (R63). -/
def execWaitExpiry (k : Fin 24) (s : State) : Host.Outcome State Fault Refusal :=
  takeEvent (fun t => t.expireWait k) s

/-- REPORT_TIMER_EXPIRY (R133). -/
def execReportTimerExpiry (p : Arm) (s : State) : Host.Outcome State Fault Refusal :=
  takeEvent (fun t => t.expireReportTimer p) s

/-- FILTER_TIMER_EXPIRY (R167). -/
def execFilterTimerExpiry (n : Fin 8) (s : State) : Host.Outcome State Fault Refusal :=
  takeEvent (fun t => t.expireFilter n) s

/-- RAW_LEVEL_CHANGE (R167): the wiring's level moves even while the part is held in reset. -/
def execRawLevelChange (n : Fin 8) (level : Level) (s : State) : Host.Outcome State Fault Refusal :=
  .next (s.changeRaw n level)

/-- ACCUMULATOR_STEP (R201). -/
def execAccumulatorStep (s : State) : Host.Outcome State Fault Refusal :=
  takeEvent State.millisecond s

end Sys2Proof.Machine
end

