-- ==== Sys2Proof/Machine/Dispatch.lean ====
section
/-! DEFINITION. One arm for each command of the BG24, each a call of its meaning. -/

namespace Sys2Proof.Machine

def exec (i : Instr) (s : State) : Host.Outcome State Fault Refusal :=
  match i with
  | .nop arm => Sys2Proof.Machine.execNop arm s
  | .attach arm => Sys2Proof.Machine.execAttach arm s
  | .detach arm => Sys2Proof.Machine.execDetach arm s
  | .report arm arg xa ya za v => Sys2Proof.Machine.execReport arm arg xa ya za v s
  | .claim arm cls box => Sys2Proof.Machine.execClaim arm cls box s
  | .release arm slot gen => Sys2Proof.Machine.execRelease arm slot gen s
  | .cancel arm slot gen => Sys2Proof.Machine.execCancel arm slot gen s
  | .query arm slot gen => Sys2Proof.Machine.execQuery arm slot gen s
  | .list arm start => Sys2Proof.Machine.execList arm start s
  | .ackstop arm => Sys2Proof.Machine.execAckstop arm s
  | .unknownKind link kind => Sys2Proof.Machine.execUnknownKind link kind s
  | .frameFailed link => Sys2Proof.Machine.execFrameFailed link s
  | .cellNop => Sys2Proof.Machine.execCellNop s
  | .ident => Sys2Proof.Machine.execIdent s
  | .setModeRun target => Sys2Proof.Machine.execSetModeRun target s
  | .setModeConfig => Sys2Proof.Machine.execSetModeConfig s
  | .loadCal arm c sn ox oy oz rxy rz => Sys2Proof.Machine.execLoadCal arm c sn ox oy oz rxy rz s
  | .loadProfile arm profile decel react cap => Sys2Proof.Machine.execLoadProfile arm profile decel react cap s
  | .loadTiming code entry wait clearance quotaA quotaB => Sys2Proof.Machine.execLoadTiming code entry wait clearance quotaA quotaB s
  | .setLine line func polarity debounce => Sys2Proof.Machine.execSetLine line func polarity debounce s
  | .setGeometry geometry => Sys2Proof.Machine.execSetGeometry geometry s
  | .mapFill code box => Sys2Proof.Machine.execMapFill code box s
  | .mapClear => Sys2Proof.Machine.execMapClear s
  | .mapCursor index => Sys2Proof.Machine.execMapCursor index s
  | .mapRead => Sys2Proof.Machine.execMapRead s
  | .groupSet group value => Sys2Proof.Machine.execGroupSet group value s
  | .forceProfile arm value => Sys2Proof.Machine.execForceProfile arm value s
  | .stop arm => Sys2Proof.Machine.execStop arm s
  | .resume arm => Sys2Proof.Machine.execResume arm s
  | .purgeArm arm => Sys2Proof.Machine.execPurgeArm arm s
  | .purgeClaim slot gen => Sys2Proof.Machine.execPurgeClaim slot gen s
  | .setCursor slot => Sys2Proof.Machine.execSetCursor slot s
  | .readClaim => Sys2Proof.Machine.execReadClaim s
  | .readArm arm => Sys2Proof.Machine.execReadArm arm s
  | .setOut lines values => Sys2Proof.Machine.execSetOut lines values s
  | .toggleOut lines => Sys2Proof.Machine.execToggleOut lines s
  | .readLines => Sys2Proof.Machine.execReadLines s
  | .readEvents => Sys2Proof.Machine.execReadEvents s
  | .clearEvents flags => Sys2Proof.Machine.execClearEvents flags s
  | .setMask mask => Sys2Proof.Machine.execSetMask mask s
  | .readCounters => Sys2Proof.Machine.execReadCounters s
  | .clearCounters set => Sys2Proof.Machine.execClearCounters set s
  | .setAccEnable enables => Sys2Proof.Machine.execSetAccEnable enables s
  | .lapse slot => Sys2Proof.Machine.execLapse slot s
  | .waitExpiry slot => Sys2Proof.Machine.execWaitExpiry slot s
  | .reportTimerExpiry arm => Sys2Proof.Machine.execReportTimerExpiry arm s
  | .rawLevelChange line level => Sys2Proof.Machine.execRawLevelChange line level s
  | .filterTimerExpiry line => Sys2Proof.Machine.execFilterTimerExpiry line s
  | .accumulatorStep => Sys2Proof.Machine.execAccumulatorStep s
  | .resetnAssert => Sys2Proof.Machine.execResetnAssert s
  | .resetnRelease => Sys2Proof.Machine.execResetnRelease s
  | .powerOnReset => Sys2Proof.Machine.execPowerOnReset s
  | .supplyBelowPowerOnThreshold => Sys2Proof.Machine.execSupplyBelowPowerOnThreshold s

end Sys2Proof.Machine
end

