-- ==== Sys2Proof/Safety.lean ====
section
/-! DEFINITION. What counts as a safe state of the BG24, in the terms that claims use: the laws that the spec states of
every state, each a predicate of its own. -/

namespace Sys2Proof.Machine

/-- An integer lies in a range, both ends included. -/
def within (lo hi x : Int) : Prop := lo ≤ x ∧ x ≤ hi

/-- A calibration record lies in the ranges of R9. -/
def Calibration.inRange (r : Calibration) : Prop :=
  within (-16384) 16384 r.c ∧ within (-16384) 16384 r.s ∧ within (-32768) 32767 r.ox ∧ within (-32768) 32767 r.oy ∧
  within (-32768) 32767 r.oz ∧ within 0 1023 r.rxy ∧ within 0 1023 r.rz

/-- A profile record lies in the ranges of R106. -/
def Profile.inRange (r : Profile) : Prop :=
  500 ≤ r.decel ∧ r.decel ≤ 65535 ∧ r.react ≤ 255 ∧ r.cap ≤ 4095

/-- The timing set, the clearance and the quotas lie in the ranges of R191. -/
def Timing.inRange (t : Timing) : Prop :=
  1 ≤ t.entrySteps ∧ t.entrySteps ≤ 255 ∧ 1 ≤ t.waitSteps ∧ t.waitSteps ≤ 255 ∧ t.clearance ≤ 1023 ∧
  ∀ p : Arm, 1 ≤ t.quota.get p ∧ t.quota.get p ≤ 16

/-- Every setting lies in its range (R9, R106, R163, R191). -/
def State.SettingsInRange (s : State) : Prop :=
  (∀ p, (s.cal.get p).inRange) ∧ (∀ p n, ((s.profiles.get p).get n).inRange) ∧ s.timing.inRange ∧
  ∀ n, (s.line n).debounce ≤ 15

/-- Each notice queue holds at most 6 notices (R180). -/
def State.QueuesBounded (s : State) : Prop := ∀ p, (s.link p).queue.length ≤ Config.noticeCapacity

/-- The link error counters lie in 0..15 (R184) and the accumulators in 0..16,777,215 (R201). -/
def State.CountersBounded (s : State) : Prop :=
  (∀ p, (s.link p).errors ≤ Config.linkErrorMax) ∧ s.cell.errors ≤ Config.linkErrorMax ∧
  (∀ p, (s.events.waitMs.get p).value ≤ Config.accumulatorMax) ∧
  ∀ p, (s.events.haltMs.get p).value ≤ Config.accumulatorMax

/-- The keep-out map has its canonical form. -/
def State.MapCanonical (s : State) : Prop := s.keepOut.wf = true

/-- In CONFIG every slot is FREE, the wait list and the notice queues are empty, both arms are DETACHED as after reset,
and both report records are invalid, with the requested profile and the profile in use FULL, and pending and fresh clear
(R47, R104, R121, R183, R189). The forced profile is the one field that the entry keeps and that CONFIG leaves open. -/
def State.ConfigQuiet (s : State) : Prop :=
  s.mode = .config →
    (∀ k, s.body k = .free) ∧ s.waitList = [] ∧
    ∀ p, s.guard p = Guard.reset ∧
      s.record p = { requested := .full, forced := (s.record p).forced, inUse := .full, pending := false, last := none,
                     fresh := false } ∧
      (s.link p).queue = [] ∧ (s.link p).noticeLost = false

/-- A guard controller record has the properties of its arm state (R121, R122): DETACHED and RUN hold no cause and no
handshake flag, STOPPED and LOST hold a cause, LOST holds LINK and no handshake flag, and the report timer runs in RUN
and STOPPED alone. -/
def Guard.Fits (g : Guard) : Prop :=
  match g.state with
  | .detached =>
      g.causes = CauseSet.empty ∧ g.resumeRequested = false ∧ g.stopAcknowledged = false ∧ g.reportTimer = none
  | .run =>
      g.causes = CauseSet.empty ∧ g.resumeRequested = false ∧ g.stopAcknowledged = false ∧ g.reportTimer.isSome = true
  | .stopped => g.causes ≠ CauseSet.empty ∧ g.reportTimer.isSome = true
  | .lost =>
      g.causes.link = true ∧ g.resumeRequested = false ∧ g.stopAcknowledged = false ∧ g.reportTimer = none

/-- Both guard controller records fit their arm states (R121, R122). -/
def State.GuardsFit (s : State) : Prop := ∀ p, (s.guard p).Fits

/-- Every claim's box lies in the bin volume, with lo ≤ hi on each axis (R31). -/
def State.BoxesInBin (s : State) : Prop :=
  ∀ k c, (s.body k).claim = some c → c.box.wellFormed = true ∧ c.box.containedIn binVolume = true

/-- No arm's count exceeds its quota (R35). -/
def State.WithinQuota (s : State) : Prop := ∀ p, s.countOf p ≤ s.timing.quota.get p

/-- No two live claims owned by different arms conflict under the clearance in force (R61). -/
def State.LiveApart (s : State) : Prop :=
  ∀ j k c d, (s.body j).live = some c → (s.body k).live = some d → c.owner ≠ d.owner →
    c.box.conflicts s.timing.clearance d.box = false

/-- The wait list holds each WAITING claim once and nothing else, URGENT entries before NORMAL ones, and at most one
claim of each arm (R57). -/
def State.WaitListExact (s : State) : Prop :=
  s.waitList.Nodup ∧ (∀ k, k ∈ s.waitList ↔ (s.body k).waitingClaim.isSome = true) ∧
  (∀ j k c d, (s.body j).waitingClaim = some c → (s.body k).waitingClaim = some d → c.owner = d.owner → j = k) ∧
  s.waitList.Pairwise fun j k =>
    ∀ c d, (s.body j).waitingClaim = some c → (s.body k).waitingClaim = some d → d.cls = .urgent → c.cls = .urgent

/-- The entries that stand ahead of slot k in the wait list (R54). -/
def State.aheadInList (s : State) (k j : Fin 24) : Bool := (s.waitList.takeWhile fun i => i != k).contains j

/-- The blocker set of every WAITING claim is not empty, and is what screening the claim against the table as it stands
would give (R56, R58). -/
def State.BlockersExact (s : State) : Prop :=
  ∀ k c left bl, s.body k = .waiting c left bl →
    bl.isEmpty = false ∧ bl = s.screen c.owner c.box (s.aheadInList k)

/-- In device RUN no GRANTED claim touches an active group (R55, R158). -/
def State.GrantedClear (s : State) : Prop :=
  s.mode = .run → ∀ k c left, s.body k = .granted c left → s.activeGroupsTouched c.box = []

/-- A DETACHED arm holds no claim (R35). -/
def State.DetachedHoldsNone (s : State) : Prop := ∀ p, s.armState p = .detached → s.countOf p = 0

/-- No arm is in RUN while the e-stop is active (R128). -/
def State.EstopHolds (s : State) : Prop := s.estopActive = true → ∀ p, s.armState p ≠ .run

/-- The kept verdict is current (R118): in device RUN its INTRUSION tells whether the recorded bin part touches an
active group, its place is OUTSIDE just for an empty bin part, and CONTAINED only while some live claim of the arm
contains the bin part. -/
def State.VerdictsKept (s : State) : Prop :=
  ∀ p l, s.mode = .run → (s.record p).last = some l →
    l.verdict.intrusion = s.partIntrudes l.binPart ∧ (l.verdict.place = .outside ↔ l.binPart = none) ∧
    ∀ b, l.binPart = some b → l.verdict.place = .contained → s.liveClaimContains p b = true

/-- The terms a high permit stands for (R143): the arm's last report was not over its cap, and its bin part is empty, or
lies in one live claim of that arm and touches no active group. -/
def State.PermitTerms (s : State) (p : Arm) : Prop :=
  ∃ l, (s.record p).last = some l ∧ l.verdict.overspeed = false ∧
    (l.binPart = none ∨
      ∃ b, l.binPart = some b ∧ s.liveClaimContains p b = true ∧ s.activeGroupsTouched b = [])

/-- Every arm in RUN holds the terms of R143. -/
def State.PermitsHonest (s : State) : Prop := ∀ p, s.armState p = .run → s.PermitTerms p

/-- An arm is in RUN in device RUN only (R142), and then its last report was not over its cap and its bin part touches
no active group: the terms of R143 but for containment. -/
def State.RunArmsClear (s : State) : Prop :=
  ∀ p, s.armState p = .run → s.mode = .run ∧
    ∃ l, (s.record p).last = some l ∧ l.verdict.overspeed = false ∧ s.partIntrudes l.binPart = false

/-- A claim of arm P that is OCCUPIED or RELEASING contains a box: the claim that R143 speaks of, which can neither
lapse, nor be revoked, nor be purged while the arm runs. -/
def State.EnteredContains (s : State) (p : Arm) (b : Box) : Prop :=
  ∃ k c, (s.body k = .occupied c ∨ s.body k = .releasing c) ∧ c.owner = p ∧ b.containedIn c.box = true

/-- The bin part of every arm in RUN is empty, or lies in one claim of the arm that is OCCUPIED or RELEASING, as R143
says of the claim that contains it. -/
def State.ContainingClaimHeld (s : State) : Prop :=
  ∀ p b, s.armState p = .run → s.binPart p = some b → s.EnteredContains p b

/-- In device RUN a kept CONTAINED stands on a claim of the arm that is OCCUPIED or RELEASING, as it does after every
report (R76, R143). Only a purge of that claim can leave it on a GRANTED one (R118): log entry 9. -/
def State.PlacesEntered (s : State) : Prop :=
  ∀ p l b, s.mode = .run → (s.record p).last = some l → l.binPart = some b → l.verdict.place = .contained →
    s.EnteredContains p b

/-- A recorded bin part is a well-formed box inside the bin, and is the bin cut of the recorded swept box, whose bounds
lie in the working range (R2, R22). -/
def State.PartsInBin (s : State) : Prop :=
  ∀ p l, (s.record p).last = some l →
    l.binPart = l.swept.binCut ∧ l.swept.wellFormed = true ∧
    within (-16384) 16383 l.swept.xlo ∧ within (-16384) 16383 l.swept.xhi ∧
    within (-16384) 16383 l.swept.ylo ∧ within (-16384) 16383 l.swept.yhi ∧
    within (-16384) 16383 l.swept.zlo ∧ within (-16384) 16383 l.swept.zhi

/-- No running timer has more left than the time it was set for (R43). -/
def State.TimersBounded (s : State) : Prop :=
  (∀ k c left, s.body k = .granted c left → left ≤ s.entryMs) ∧
  (∀ k c left bl, s.body k = .waiting c left bl → left ≤ s.waitMs) ∧
  (∀ p n, (s.guard p).reportTimer = some n → n ≤ s.reportMs) ∧
  ∀ n t, (s.line n).filterTimer = some t → t ≤ (s.line n).debounce

/-- A line with an output function has an inactive filtered level and no filter timer (R167); an input line whose timer
runs has a raw level that differs from its filtered level, and one whose timer is stopped has none. While the part is
held in reset the raw levels move and no filter follows them (R173). -/
def State.FiltersFit (s : State) : Prop :=
  s.inReset = false → ∀ n, if (s.line n).func.isOutput = true then (s.line n).filtered = false ∧ (s.line n).filterTimer = none
    else ((s.line n).filterTimer.isSome = true ↔
      levelActive (s.line n).polarity (s.line n).wire ≠ (s.line n).filtered)

/-- An arm that holds a claim, or is not DETACHED, has a valid report record (chapter 4, R123, R139). -/
def State.RecordsValid (s : State) : Prop :=
  ∀ p, (s.countOf p ≠ 0 ∨ s.armState p ≠ .detached) → (s.record p).last.isSome = true

/-! ### Replies and their bytes -/

/-- A box's bounds lie in the range of a signed field of two bytes (R185). -/
def Box.inFields (b : Box) : Prop :=
  within (-32768) 32767 b.xlo ∧ within (-32768) 32767 b.xhi ∧ within (-32768) 32767 b.ylo ∧
  within (-32768) 32767 b.yhi ∧ within (-32768) 32767 b.zlo ∧ within (-32768) 32767 b.zhi

/-- The data of an arm reply fit the fields of their layout (section 9.5). -/
def ArmData.Fits : ArmData → Prop
  | .empty => True
  | .report _ d => d ≤ 65535
  | .handle _ _ => True
  | .query _ _ tens => tens ≤ 255
  | .list count entries => count ≤ 255 ∧ entries.length ≤ 4

/-- The data of a cell controller reply fit the fields of their layout (section 9.6). -/
def CellData.Fits : CellData → Prop
  | .empty => True
  | .identity => True
  | .calBad _ => True
  | .cellsTouched n => n ≤ 65535
  | .mapCodes codes => codes.length = 64
  | .groups _ _ => True
  | .purged n => n ≤ 255
  | .claimRecord _ record position =>
      (∀ c, record.body.claim = some c → c.box.inFields) ∧ record.body.remaining ≤ 65535 ∧ position ≤ 255
  | .armRecord _ record =>
      ∀ l, record.last = some l → l.swept.inFields ∧ ∀ b, l.binPart = some b → b.inFields
  | .outputs values => values.length = 8
  | .lines readings _ => readings.length = 8
  | .events _ _ => True
  | .counters errors accumulators =>
      errors.length = 3 ∧ (∀ e ∈ errors, e ≤ 255) ∧ accumulators.length = 4 ∧ ∀ a ∈ accumulators, a.value ≤ 16777215

/-- The replies held in the three reply slots fit their layouts (sections 9.5 and 9.6). -/
def State.RepliesFit (s : State) : Prop := (∀ p, (s.link p).reply.data.Fits) ∧ s.cell.reply.data.Fits

/-- The bytes from i up to and not including j are 0: the layout names none of them (R185). -/
def zeroBytes (f : List Byte) (i j : Nat) : Prop := ∀ k, i ≤ k → k < j → byteAt f k = 0

/-- Bytes 3 to 5 of an arm reply read back as its notice (section 9.5, R181). -/
def NoticeReads (f : List Byte) : Option Notice → Prop
  | none => zeroBytes f 3 6
  | some n =>
      (byteAt f 3).toNat = n.kind.code ∧ (byteAt f 4).toNat = n.slot.val ∧ (byteAt f 5).toNat = n.gen.val

/-- Two bytes read back as an entry of LIST, or as an unused one (section 9.5, R44). -/
def EntryReads (first second : Byte) : Option ListEntry → Prop
  | none => first = 0 ∧ second = 0
  | some e =>
      (first.extractLsb' 0 5).toNat = e.slot.val ∧ (first.extractLsb' 5 3).toNat = e.state.code ∧
      second.toNat = e.gen.val

/-- Bytes 6 to 14 of an arm reply read back as its data (section 9.5). -/
def ArmDataReads (f : List Byte) : ArmData → Prop
  | .empty => zeroBytes f 6 15
  | .report v d => byteAt f 6 = v.byte ∧ (halfAt f 7).toNat = d ∧ zeroBytes f 9 15
  | .handle slot gen => (byteAt f 6).toNat = slot.val ∧ (byteAt f 7).toNat = gen.val ∧ zeroBytes f 8 15
  | .query state cls tens =>
      (byteAt f 6).toNat = state.code ∧ (byteAt f 7).toNat = cls.code ∧ (byteAt f 8).toNat = tens ∧ zeroBytes f 9 15
  | .list count entries =>
      (byteAt f 6).toNat = count ∧
      ∀ n, n < 4 → EntryReads (byteAt f (7 + 2 * n)) (byteAt f (8 + 2 * n)) entries[n]?

/-- Bytes 3 to 26 of a READ_CLAIM reply read back as a slot's record, absent fields as 0 (section 9.6, R41, R186). -/
def ClaimRecordReads (f : List Byte) (slot : Fin 24) (record : Slot) (position : Nat) : Prop :=
  (byteAt f 3).toNat = slot.val ∧ (byteAt f 4).toNat = record.gen.val ∧
  (byteAt f 5).toNat = record.body.state.code ∧
  (match record.body.claim with
    | none => zeroBytes f 6 20
    | some c => (byteAt f 6).toNat = armCode c.owner ∧ (byteAt f 7).toNat = c.cls.code ∧ boxOf (boxAt f 8) = c.box) ∧
  (halfAt f 20).toNat = record.body.remaining ∧
  (match record.body with
    | .waiting _ _ bl =>
        (∀ k : Fin 24, (byteAt f (22 + k / 8)).getLsbD (k % 8) = bl.slots.contains k) ∧
        (∀ g, (byteAt f 25).getLsbD (mapCode (some g) - 1) = bl.groups.contains g) ∧
        (byteAt f 25).extractLsb' 3 5 = 0 ∧ (byteAt f 26).toNat = position
    | _ => zeroBytes f 22 27) ∧
  zeroBytes f 27 31

/-- Bytes 3 to 30 of a READ_ARM reply read back as an arm's records; while the report record is invalid the verdict and
both boxes are 0, and so is an empty bin part (section 9.6, R186). -/
def ArmRecordReads (f : List Byte) (g : Guard) (r : ReportRecord) : Prop :=
  ((byteAt f 3).extractLsb' 0 3).toNat = g.state.code ∧ ((byteAt f 3).extractLsb' 3 2).toNat = forcedCode r.forced ∧
  ((byteAt f 3).getLsbD 5).toNat = r.requested.code ∧ ((byteAt f 3).getLsbD 6).toNat = r.inUse.code ∧
  (byteAt f 3).getLsbD 7 = r.pending ∧ byteAt f 4 = g.causes.byte ∧
  (byteAt f 5).getLsbD 0 = g.resumeRequested ∧ (byteAt f 5).getLsbD 1 = g.stopAcknowledged ∧
  (byteAt f 5).getLsbD 2 = r.fresh ∧ (byteAt f 5).getLsbD 3 = r.last.isSome ∧
  ((byteAt f 5).getLsbD 4 = true ↔ ∃ l, r.last = some l ∧ l.binPart = none) ∧ (byteAt f 5).extractLsb' 5 3 = 0 ∧
  match r.last with
  | none => zeroBytes f 6 31
  | some l =>
      byteAt f 6 = l.verdict.byte ∧ boxOf (boxAt f 7) = l.swept ∧
      match l.binPart with
      | none => zeroBytes f 19 31
      | some b => boxOf (boxAt f 19) = b

/-- Bytes 3 to 30 of a cell controller reply read back as its data (section 9.6). -/
def CellDataReads (f : List Byte) : CellData → Prop
  | .empty => zeroBytes f 3 31
  | .identity => byteAt f 3 = 0x24 ∧ byteAt f 4 = 1 ∧ zeroBytes f 5 31
  | .calBad arm => (byteAt f 3).toNat = armCode arm ∧ zeroBytes f 4 31
  | .cellsTouched n => (halfAt f 3).toNat = n ∧ zeroBytes f 5 31
  | .mapCodes codes =>
      (∀ (i : Nat) (g : Option Group), codes[i]? = some g →
        ((byteAt f (3 + i / 4)).extractLsb' (2 * (i % 4)) 2).toNat = mapCode g) ∧ zeroBytes f 19 31
  | .groups flags activity =>
      (∀ g, (byteAt f 3).getLsbD (mapCode (some g) - 1) = flags.get g) ∧
      (∀ g, (byteAt f 3).getLsbD (mapCode (some g) + 3) = activity.get g) ∧ (byteAt f 3).getLsbD 3 = false ∧
      (byteAt f 3).getLsbD 7 = false ∧ zeroBytes f 4 31
  | .purged n => (byteAt f 3).toNat = n ∧ zeroBytes f 4 31
  | .claimRecord slot record position => ClaimRecordReads f slot record position
  | .armRecord guard record => ArmRecordReads f guard record
  | .outputs values => (∀ n v, values[n]? = some v → (byteAt f 3).getLsbD n = v) ∧ zeroBytes f 4 31
  | .lines readings estop =>
      (∀ (n : Nat) (r : LineReading), readings[n]? = some r →
        ((byteAt f 3).getLsbD n = true ↔ r.raw = .high) ∧ (byteAt f 4).getLsbD n = r.filtered ∧
        ((byteAt f (5 + n / 2)).extractLsb' (4 * (n % 2)) 4).toNat = r.func.code ∧ (byteAt f 9).getLsbD n = r.out) ∧
      (byteAt f 10).toNat = estop.toNat ∧ zeroBytes f 11 31
  | .events flags mask => halfAt f 3 = flags ∧ halfAt f 5 = mask ∧ zeroBytes f 7 31
  | .counters errors accumulators =>
      (∀ (n e : Nat), errors[n]? = some e → (byteAt f (3 + n)).toNat = e) ∧
      (∀ (n : Nat) (a : Accumulator), accumulators[n]? = some a →
        (byteAt f (6 + 3 * n)).toNat + 256 * (byteAt f (7 + 3 * n)).toNat + 65536 * (byteAt f (8 + 3 * n)).toNat =
          a.value ∧
        (byteAt f 18).getLsbD n = a.enabled) ∧
      (byteAt f 18).extractLsb' 4 4 = 0 ∧ zeroBytes f 19 31

/-! ### Frames and their bytes -/

/-- A command is an arm request whose kind and fields stand in the bytes of a frame (section 9.5). -/
def RequestReads (f : List Byte) : Instr → Prop
  | .nop _ => byteAt f 0 = 0x00
  | .attach _ => byteAt f 0 = 0x01
  | .detach _ => byteAt f 0 = 0x02
  | .report _ arg xa ya za v =>
      byteAt f 0 = 0x03 ∧ byteAt f 1 = arg ∧ halfAt f 2 = xa ∧ halfAt f 4 = ya ∧ halfAt f 6 = za ∧ halfAt f 8 = v
  | .claim _ cls box => byteAt f 0 = 0x04 ∧ byteAt f 1 = cls ∧ boxAt f 2 = box
  | .release _ slot gen => byteAt f 0 = 0x05 ∧ byteAt f 2 = slot ∧ byteAt f 3 = gen
  | .cancel _ slot gen => byteAt f 0 = 0x06 ∧ byteAt f 2 = slot ∧ byteAt f 3 = gen
  | .query _ slot gen => byteAt f 0 = 0x07 ∧ byteAt f 2 = slot ∧ byteAt f 3 = gen
  | .list _ start => byteAt f 0 = 0x08 ∧ byteAt f 1 = start
  | .ackstop _ => byteAt f 0 = 0x09
  | _ => False

/-- A command is one of the cell controller's, whose kind and fields stand in the bytes of a frame (section 9.6). -/
def CommandReads (f : List Byte) : Instr → Prop
  | .cellNop => byteAt f 0 = 0x00
  | .ident => byteAt f 0 = 0x01
  | .setModeConfig => byteAt f 0 = 0x02 ∧ byteAt f 1 = 0
  | .setModeRun target => byteAt f 0 = 0x02 ∧ byteAt f 1 = target ∧ target ≠ 0
  | .loadCal arm c sn ox oy oz rxy rz =>
      byteAt f 0 = 0x03 ∧ byteAt f 1 = arm ∧ halfAt f 2 = c ∧ halfAt f 4 = sn ∧ halfAt f 6 = ox ∧ halfAt f 8 = oy ∧
      halfAt f 10 = oz ∧ halfAt f 12 = rxy ∧ halfAt f 14 = rz
  | .loadProfile arm profile decel react cap =>
      byteAt f 0 = 0x04 ∧ byteAt f 1 = arm ∧ byteAt f 2 = profile ∧ halfAt f 3 = decel ∧ halfAt f 5 = react ∧
      halfAt f 7 = cap
  | .loadTiming code entry wait clearance qa qb =>
      byteAt f 0 = 0x05 ∧ byteAt f 2 = code ∧ byteAt f 3 = entry ∧ byteAt f 4 = wait ∧ halfAt f 5 = clearance ∧
      byteAt f 7 = qa ∧ byteAt f 8 = qb
  | .setLine line func pol deb =>
      byteAt f 0 = 0x06 ∧ byteAt f 1 = line ∧ byteAt f 2 = func ∧ byteAt f 3 = pol ∧ byteAt f 4 = deb
  | .setGeometry g => byteAt f 0 = 0x07 ∧ byteAt f 1 = g
  | .mapFill code box => byteAt f 0 = 0x08 ∧ byteAt f 1 = code ∧ boxAt f 2 = box
  | .mapClear => byteAt f 0 = 0x09
  | .mapCursor index => byteAt f 0 = 0x0A ∧ halfAt f 2 = index
  | .mapRead => byteAt f 0 = 0x0B
  | .groupSet group value => byteAt f 0 = 0x0C ∧ byteAt f 1 = group ∧ byteAt f 2 = value
  | .forceProfile arm value => byteAt f 0 = 0x0D ∧ byteAt f 1 = arm ∧ byteAt f 2 = value
  | .stop arm => byteAt f 0 = 0x0E ∧ byteAt f 1 = arm
  | .resume arm => byteAt f 0 = 0x0F ∧ byteAt f 1 = arm
  | .purgeArm arm => byteAt f 0 = 0x10 ∧ byteAt f 1 = arm
  | .purgeClaim slot gen => byteAt f 0 = 0x11 ∧ byteAt f 2 = slot ∧ byteAt f 3 = gen
  | .setCursor slot => byteAt f 0 = 0x12 ∧ byteAt f 1 = slot
  | .readClaim => byteAt f 0 = 0x13
  | .readArm arm => byteAt f 0 = 0x14 ∧ byteAt f 1 = arm
  | .setOut lines values => byteAt f 0 = 0x15 ∧ byteAt f 2 = lines ∧ byteAt f 3 = values
  | .toggleOut lines => byteAt f 0 = 0x16 ∧ byteAt f 2 = lines
  | .readLines => byteAt f 0 = 0x17
  | .readEvents => byteAt f 0 = 0x18
  | .clearEvents flags => byteAt f 0 = 0x19 ∧ halfAt f 2 = flags
  | .setMask mask => byteAt f 0 = 0x1A ∧ halfAt f 2 = mask
  | .readCounters => byteAt f 0 = 0x1B
  | .clearCounters set => byteAt f 0 = 0x1C ∧ byteAt f 1 = set
  | .setAccEnable enables => byteAt f 0 = 0x1D ∧ byteAt f 1 = enables
  | _ => False

/-! ### What an event leaves unchanged -/

/-- A report record between two of its arm's reports, as retirements leave it (R118): unchanged, or its kept CONTAINED
become ESCAPED. -/
def RecordKept (r r' : ReportRecord) : Prop :=
  r' = r ∨ ∃ l, r.last = some l ∧ l.verdict.place = .contained ∧
    r' = { r with last := some { l with verdict := { l.verdict with place := .escaped } } }

/-- A link as the Claim Table's events leave it: notices may join its queue and NOTICE_LOST may be set, and nothing else
changes (R180, R182). -/
def LinkKept (l l' : ArmLink) : Prop := l'.reply = l.reply ∧ l'.errors = l.errors ∧ l'.incoming = l.incoming

/-- What an event of the Claim Table leaves unchanged: everything but the slots, the wait list, the notice queues with
their NOTICE_LOST indications, the sticky flags, and a kept place (R89, R118, R180). -/
structure TableFrame (s t : State) : Prop where
  mode : t.mode = s.mode
  cal : t.cal = s.cal
  profiles : t.profiles = s.profiles
  timing : t.timing = s.timing
  guards : t.guards = s.guards
  cell : t.cell = s.cell
  keepOut : t.keepOut = s.keepOut
  lines : t.lines = s.lines
  resetnLow : t.resetnLow = s.resetnLow
  supplyLow : t.supplyLow = s.supplyLow
  pending : t.pending = s.pending
  mask : t.events.mask = s.events.mask
  waitMs : t.events.waitMs = s.events.waitMs
  haltMs : t.events.haltMs = s.events.haltMs
  records : ∀ p, RecordKept (s.record p) (t.record p)
  links : ∀ p, LinkKept (s.link p) (t.link p)

/-- What a re-screen may do to a slot (R70, R71): nothing, or to a WAITING claim a new blocker set or the grant with a
lapse timer of T_entry. -/
def BodyRescreened (entryMs : Nat) (b b' : SlotBody) : Prop :=
  b' = b ∨ ∃ c left bl, b = .waiting c left bl ∧ ((∃ bl', b' = .waiting c left bl') ∨ b' = .granted c entryMs)

/-- The slots outside a list, across an event that retires the claims of that list and re-screens the wait list. -/
def OthersRescreened (s t : State) (ks : List (Fin 24)) : Prop :=
  ∀ j, j ∉ ks → (t.slot j).gen = (s.slot j).gen ∧ BodyRescreened s.entryMs (s.body j) (t.body j)

/-- A slot after the retirement of its claim: FREE, its gen advanced by one, from 15 to 0 (R32, R89). -/
def Retired (s t : State) (k : Fin 24) : Prop := t.slot k = { gen := (s.slot k).gen + 1, body := .free }

/-- The sticky flags but for the two NOTICE_LOST flags, which a dropped notice may set (R182). -/
def StickyFlags.quietOf (f : StickyFlags) : StickyFlags := { f with noticeLost := { a := false, b := false } }

/-- Notices join the back of arm q's queue as far as there is room for 6, and one that finds no room sets NOTICE_LOST
at the link and in the Event Unit (R180, R182). The reply slot, the error counter and the frame in progress stay. -/
structure Queued (s t : State) (q : Arm) (ns : List Notice) : Prop where
  queue : (t.link q).queue = (s.link q).queue ++ ns.take (Config.noticeCapacity - (s.link q).queue.length)
  lost : (t.link q).noticeLost =
    ((s.link q).noticeLost || decide (Config.noticeCapacity - (s.link q).queue.length < ns.length))
  flag : t.events.sticky.noticeLost.get q =
    (s.events.sticky.noticeLost.get q || decide (Config.noticeCapacity - (s.link q).queue.length < ns.length))
  kept : LinkKept (s.link q) (t.link q)

/-- The notice of a kind about the claim in slot k, with the gen that the slot has in s (R180). -/
def noticeOf (s : State) (kind : NoticeKind) (k : Fin 24) : Notice := { kind := kind, slot := k, gen := (s.slot k).gen }

/-- The notices to arm q of the retirement of a list of claims, where the cause names a notice (R90). -/
def retirementNotices (s : State) (q : Arm) (ks : List (Fin 24)) (kind : Option NoticeKind) : List Notice :=
  match kind with
  | none => []
  | some n => (ks.filter (s.holdsClaim q)).map (noticeOf s n)

/-- The claim in slot k waits in s, and is granted in t with a lapse timer of T_entry: a claim of arm q (R71). -/
def GrantedBetween (s t : State) (q : Arm) (k : Fin 24) : Prop :=
  ∃ c left bl, s.body k = .waiting c left bl ∧ c.owner = q ∧ t.body k = .granted c s.entryMs

/-- Slot j stands nearer the front of s's wait list than slot k, and its claim still waits in t (R70). -/
def stillAhead (s t : State) (k j : Fin 24) : Bool := s.aheadInList k j && (t.body j).waitingClaim.isSome

/-- The retirement of a list of claims costs arm q its kept CONTAINED (R118): some live claim of q is retired, and none
that remains contains the recorded bin part. -/
def State.placeLost (s : State) (q : Arm) (ks : List (Fin 24)) : Bool :=
  ks.any (s.holdsLive q) &&
    match (s.record q).last with
    | none => false
    | some l =>
      l.verdict.place == .contained &&
        match l.binPart with
        | none => false
        | some b => !(allSlots.any fun k => !ks.contains k &&
            match (s.body k).live with
            | none => false
            | some c => c.owner == q && b.containedIn c.box)

/-- A report record with its kept place made ESCAPED (R118). -/
def ReportRecord.escaped (r : ReportRecord) : ReportRecord :=
  { r with last := r.last.map fun l => { l with verdict := { l.verdict with place := .escaped } } }

/-- An event of the Claim Table that retires the claims of a list, or is the end of a group's activity, with the
re-screen that follows (R69 to R71, R89, R90, R118). `kind` is the notice that the cause names, `inReport` says that
the retirements are part of the taking of their owner's report, and `flags` sets the event flags that the cause names. -/
structure TableEvent (s t : State) (ks : List (Fin 24)) (kind : Option NoticeKind) (inReport : Bool)
    (flags : StickyFlags → StickyFlags) : Prop where
  frame : TableFrame s t
  /-- The claims of the list are retired. -/
  retired : ∀ k ∈ ks, Retired s t k
  /-- No other slot changes but for WAITING claims that the walk visits. -/
  others : OthersRescreened s t ks
  /-- Each WAITING claim that the walk visits is granted where nothing blocks it in the table as the walk leaves it, and
  otherwise stays with what blocks it as its blocker set. -/
  decided : ∀ k c left bl, k ∉ ks → k ∈ s.waitList → s.body k = .waiting c left bl →
    let found := t.screen c.owner c.box (stillAhead s t k)
    if found.isEmpty = true then t.body k = .granted c s.entryMs else t.body k = .waiting c left found
  /-- The retired and the granted claims leave the wait list, and the rest keep their order. -/
  waitList : t.waitList = s.waitList.filter fun k =>
    !(ks.contains k || ((s.body k).waitingClaim.isSome && (t.body k).waitingClaim.isNone))
  /-- Notices of the retirements, and behind them those of the grants (R71, R90). -/
  notices : ∀ q, ∃ gs : List (Fin 24), gs.Nodup ∧ (∀ k, k ∈ gs ↔ GrantedBetween s t q k) ∧
    Queued s t q (retirementNotices s q ks kind ++ gs.map (noticeOf s .granted))
  /-- A kept CONTAINED becomes ESCAPED where its last containing claim is retired outside a report (R118). -/
  places : ∀ q, t.record q =
    if inReport = false ∧ s.placeLost q ks = true then (s.record q).escaped else s.record q
  /-- No other sticky flag changes. -/
  sticky : t.events.sticky.quietOf = (flags s.events.sticky).quietOf

/-! ### Conditions of commands -/

/-- Slot k holds claim c, and the claim is live: GRANTED, OCCUPIED or RELEASING (R29). -/
def LiveAt (s : State) (k : Fin 24) (c : ClaimData) : Prop :=
  (∃ left, s.body k = .granted c left) ∨ s.body k = .occupied c ∨ s.body k = .releasing c

/-- Slot k holds claim c, and the claim is WAITING. -/
def WaitingAt (s : State) (k : Fin 24) (c : ClaimData) : Prop := ∃ left bl, s.body k = .waiting c left bl

/-- A handle's two bytes name the claim in slot k: the slot in 0..23 and not FREE, and its gen the handle's (R39). -/
def HandleNames (s : State) (slot gen : Byte) (k : Fin 24) : Prop :=
  slot.toNat = k.val ∧ (s.body k).claim.isSome = true ∧ (s.slot k).gen.val = gen.toNat

/-- The conditions of the resume check (R139): e-stop inactive, a fresh report, and a kept verdict that is OUTSIDE or
CONTAINED with neither indication. -/
def MayResume (s : State) (p : Arm) : Prop :=
  s.estopActive = false ∧ (s.record p).fresh = true ∧
    ∃ l, (s.record p).last = some l ∧ (l.verdict.place = .outside ∨ l.verdict.place = .contained) ∧
      l.verdict.intrusion = false ∧ l.verdict.overspeed = false

/-- A guard controller record that a completed resume leaves (R139): the report timer is the one field kept. -/
def Guard.resumed (g : Guard) : Guard :=
  { state := .run, causes := CauseSet.empty, resumeRequested := false, stopAcknowledged := false,
    reportTimer := g.reportTimer }

/-- A guard controller record after a stop event in RUN or STOPPED (R126, R131): the cause joins the set, the arm is
STOPPED, both handshake flags are clear, and the report timer runs on. -/
def Guard.stoppedBy (g : Guard) (cause : StopCause) : Guard :=
  { state := .stopped
    causes :=
      { envelope := g.causes.envelope || cause == .envelope, intrusion := g.causes.intrusion || cause == .intrusion
        overspeed := g.causes.overspeed || cause == .overspeed, estop := g.causes.estop || cause == .estop
        supervisor := g.causes.supervisor || cause == .supervisor, link := g.causes.link || cause == .link }
    resumeRequested := false, stopAcknowledged := false, reportTimer := g.reportTimer }

/-- An arm's calibration record passes the commit check (R11). -/
def Commits (s : State) (p : Arm) : Prop :=
  (s.cal.get p).loaded = true ∧
    ((s.cal.get p).c * (s.cal.get p).c + (s.cal.get p).s * (s.cal.get p).s - 268435456).natAbs ≤ 4194304

/-- CLAIM checks 2 to 6 hold for arm p with the class, the box after the box check, and the lowest FREE slot k (R34,
R49). -/
structure Admitted (s : State) (p : Arm) (cls : Byte) (raw : RawBox) (c : ClaimData) (k : Fin 24) : Prop where
  arm : s.armState p = .run ∨ s.armState p = .stopped
  owner : c.owner = p
  cls : cls.toNat = c.cls.code
  sent : (boxOf raw).wellFormed = true
  box : (boxOf raw).binCut = some c.box
  quota : s.countOf p < s.timing.quota.get p
  free : s.body k = .free
  lowest : ∀ j, j < k → s.body j ≠ .free

/-- The cycle condition for arm p's request with this blocker set (R65). -/
def CycleStands (s : State) (p : Arm) (bl : Blockers) : Prop :=
  bl.slots ≠ [] ∧ ∃ j w left wb i, s.body j = .waiting w left wb ∧ w.owner = p.other ∧ i ∈ wb.slots ∧
    s.holdsLive p i = true

/-- The state after slot k has taken a body, slot k joining the blocker set of each WAITING claim of the other arm that
conflicts with the box and that `behind` names (R58). -/
structure JoinedAt (s t : State) (p : Arm) (k : Fin 24) (box : Box) (b : SlotBody) (behind : Fin 24 → Bool) : Prop where
  taken : t.slot k = { s.slot k with body := b }
  others : ∀ j, j ≠ k → t.slot j =
    { s.slot j with body :=
        match s.body j with
        | .waiting w left bl =>
          if w.owner = p.other ∧ w.box.conflicts s.timing.clearance box = true ∧ behind j = true then
            .waiting w left (bl.addSlot k)
          else .waiting w left bl
        | other => other }

/-- The outcome of arm p's resume check at an occasion, made on s and leaving t (R139, R140): a STOPPED arm whose
handshake is complete resumes where the conditions hold in t, and otherwise its guard controller record stays. -/
def Rechecked (s t : State) (p : Arm) : Prop :=
  let ready := s.armState p = .stopped ∧ (s.guard p).resumeRequested = true ∧ (s.guard p).stopAcknowledged = true ∧
    MayResume t p
  (ready → t.guard p = (s.guard p).resumed) ∧ (¬ ready → t.guard p = s.guard p)

/-- What follows from s0, where group g has just become active in device RUN, to t (R58, R118, R130, R158, R159): the
GRANTED claims whose box touches g are revoked, wherever their owner's bin part lies (log entry 19), with one re-screen
where there were any, and otherwise the waits that touch g gain it; an arm in RUN or STOPPED whose bin part touches g
takes cause INTRUSION; and the kept INTRUSION of both records is made current. -/
def GroupActivates (s0 t : State) (g : Group) : Prop :=
  let hit := fun p => s0.partTouches (s0.binPart p) g = true
  ∃ (m : State) (ks : List (Fin 24)), ks.Pairwise (· < ·) ∧
    (∀ k, k ∈ ks ↔ ∃ c left, s0.body k = .granted c left ∧ s0.keepOut.touchesGroup c.box g = true) ∧
    (if ks = [] then
      (∀ k, m.slot k =
        { s0.slot k with body :=
            match s0.body k with
            | .waiting c left bl =>
              .waiting c left (if s0.keepOut.touchesGroup c.box g = true then bl.addGroup g else bl)
            | other => other }) ∧ { m with slots := s0.slots } = s0
    else TableEvent s0 m ks (some .revoked) false fun f => { f with revoked := true }) ∧
    (∀ p, t.guard p =
      if hit p ∧ (s0.armState p = .run ∨ s0.armState p = .stopped) then (s0.guard p).stoppedBy .intrusion
      else s0.guard p) ∧
    (∀ p, t.record p =
      { m.record p with
        last := (m.record p).last.map fun l =>
          { l with verdict := { l.verdict with intrusion := s0.partIntrudes l.binPart } }
        fresh := (s0.record p).fresh && !decide (hit p ∧ s0.armState p = .run) }) ∧
    t.events = { m.events with sticky := { m.events.sticky with stop :=
      { a := m.events.sticky.stop.a || decide (hit .a ∧ s0.armState .a = .run)
        b := m.events.sticky.stop.b || decide (hit .b ∧ s0.armState .b = .run) } } } ∧
    { t with guards := m.guards, records := m.records, events := m.events } = m

/-- What follows from s0, where a group has just become inactive in device RUN, to t (R118, R140, R161): the wait list is
re-screened, the kept INTRUSION of both records is made current, and the resume check of each arm is made. -/
def GroupDeactivates (s0 t : State) : Prop :=
  ∃ m : State, TableEvent s0 m [] none false id ∧
    (∀ p, t.record p =
      { s0.record p with last := (s0.record p).last.map fun l =>
          { l with verdict := { l.verdict with intrusion := s0.partIntrudes l.binPart } } }) ∧
    (∀ p, Rechecked s0 t p) ∧ { t with guards := m.guards, records := m.records } = m

/-- Command i, the expiry of input line n's filter timer or a raw level change there with debounce 0, changes the line's
filtered level, or finds it so; s0 is s with that change alone (R167). -/
inductive FilteredChange (s : State) (n : Fin 8) : Instr → State → Prop where
  | expiry : (s.line n).func.code ≤ 4 → (s.line n).filterTimer = some 0 →
      FilteredChange s n (.filterTimerExpiry n) (s.setLine n
        { s.line n with
          filtered := decide ((s.line n).wire = .high ↔ (s.line n).polarity = .activeHigh), filterTimer := none })
  | raw (level : Level) : (s.line n).func.code ≤ 4 → (s.line n).wire ≠ level → (s.line n).debounce = 0 →
      decide (level = .high ↔ (s.line n).polarity = .activeHigh) ≠ (s.line n).filtered →
      FilteredChange s n (.rawLevelChange n level) (s.setLine n
        { s.line n with
          wire := level, filtered := decide (level = .high ↔ (s.line n).polarity = .activeHigh), filterTimer := none })

/-- A timer has run its full time and its expiry has not been taken yet (R1, R43): the event that its expiry is. -/
inductive ExpiryDue (s : State) : Instr → Prop where
  | lapse {k c} : s.body k = .granted c 0 → ExpiryDue s (.lapse k)
  | wait {k c bl} : s.body k = .waiting c 0 bl → ExpiryDue s (.waitExpiry k)
  | report {p} : (s.guard p).reportTimer = some 0 → ExpiryDue s (.reportTimerExpiry p)
  | filter {n} : (s.line n).filterTimer = some 0 → ExpiryDue s (.filterTimerExpiry n)

/-- The commands of a list, taken one after another, lead from one state to another. -/
inductive TakenInTurn : List Instr → State → State → Prop where
  | done (s : State) : TakenInTurn [] s s
  | next {i : Instr} {is : List Instr} {s m t : State} :
      exec i s = .next m → TakenInTurn is m t → TakenInTurn (i :: is) s t

/-! ### Geometry -/

/-- A point lies in a box. -/
def Box.holds (b : Box) (x y z : Int) : Prop :=
  within b.xlo b.xhi x ∧ within b.ylo b.yhi y ∧ within b.zlo b.zhi z

/-- The tool point without saturation (R17, R23). -/
def exactToolPoint (cal : Calibration) (xa ya za : Int) : Point :=
  { x := roundQ14 (cal.c * xa - cal.s * ya) + cal.ox
    y := roundQ14 (cal.s * xa + cal.c * ya) + cal.oy
    z := za + cal.oz }

/-- The swept box about a point without saturation (R21, R23). -/
def exactSweptBox (cal : Calibration) (pt : Point) (d : Nat) : Box :=
  { xlo := pt.x - (cal.rxy + d), xhi := pt.x + (cal.rxy + d)
    ylo := pt.y - (cal.rxy + d), yhi := pt.y + (cal.rxy + d)
    zlo := pt.z - (cal.rz + d), zhi := pt.z + (cal.rz + d) }

/-- The box that the cell with index `i` covers (R146). -/
def cellBox (g : Geometry) (i : Nat) : Box :=
  let ix := i % g.nxy
  let iy := i / g.nxy % g.nxy
  let iz := i / (g.nxy * g.nxy)
  { xlo := ix * g.edgeXY, xhi := ix * g.edgeXY + g.edgeXY - 1
    ylo := iy * g.edgeXY, yhi := iy * g.edgeXY + g.edgeXY - 1
    zlo := iz * g.edgeZ, zhi := iz * g.edgeZ + g.edgeZ - 1 }

/-- All of these together: the laws, and the two conditions on the containing claim that a purge can end (`held`,
`entered`; log entry 9). -/
structure State.Sound (s : State) : Prop where
  settings : s.SettingsInRange
  queues : s.QueuesBounded
  counters : s.CountersBounded
  map : s.MapCanonical
  quiet : s.ConfigQuiet
  guards : s.GuardsFit
  boxes : s.BoxesInBin
  quota : s.WithinQuota
  apart : s.LiveApart
  waitList : s.WaitListExact
  blockers : s.BlockersExact
  granted : s.GrantedClear
  detached : s.DetachedHoldsNone
  estop : s.EstopHolds
  verdicts : s.VerdictsKept
  clear : s.RunArmsClear
  parts : s.PartsInBin
  timers : s.TimersBounded
  filters : s.FiltersFit
  records : s.RecordsValid
  replies : s.RepliesFit
  permits : s.PermitsHonest
  held : s.ContainingClaimHeld
  entered : s.PlacesEntered

end Sys2Proof.Machine
end

