-- ==== Sys2Proof/Certificates/Slice0/Obligations.lean ====
section
/-! DEFINITION. The statements about this model that are to be proved, each a proposition of its own. Their words are
those of Safety.lean; OBLIGATIONS.json gives each its title, its tier and the rules that it rests on. -/

section
open Sys2Proof Sys2Proof.Machine

/-! ### The machine -/

/-- A step takes the command at the front of the queue: it is exec of that command on the state with the queue's rest.
That an empty queue idles is the model's choice (log entry 4). -/
def Obligations.StepTakesFrontCommand : Prop :=
  (∀ (i : Instr) (rest : List Instr) (s : State),
    step { s with pending := i :: rest } = exec i { s with pending := rest }) ∧
  ∀ s : State, s.pending = [] → step s = .next s

/-- Every command is answered with a next state in every state, and leaves the queue of waiting commands alone. That no
command faults or is refused is the model's inference from the rules (log entry 13), the queue is the model's own (log
entry 10), and that a command has an answer while the part is held in reset, having no effect there, is the model's
reading of R173 (log entry 7). -/
def Obligations.EveryCommandAnswersNext : Prop :=
  ∀ (i : Instr) (s : State), ∃ t : State, exec i s = .next t ∧ t.pending = s.pending

/-- RESETN's fall and the supply's fall begin a reset and abandon the frames in progress. While either is low no command
has an effect but the four reset events, and but for the wiring's level at a pin (which is the model's own record of the
world, log entry 2); the permits are low, ALERT is released, and no line is driven (R172, R173). -/
def Obligations.ResetHoldsPart : Prop :=
  (∀ s : State, s.inReset = true ↔ s.resetnLow = true ∨ s.supplyLow = true) ∧
  (∀ s : State,
    let links : PerArm ArmLink :=
      { a := { s.links.a with incoming := none }, b := { s.links.b with incoming := none } }
    let cell := { s.cell with incoming := none }
    exec .resetnAssert s = .next { s with links := links, cell := cell, resetnLow := true } ∧
    exec .supplyBelowPowerOnThreshold s = .next { s with links := links, cell := cell, supplyLow := true }) ∧
  ∀ s : State, s.inReset = true →
    (∀ i : Instr, i ≠ .resetnAssert → i ≠ .resetnRelease → i ≠ .powerOnReset → i ≠ .supplyBelowPowerOnThreshold →
      (∀ n l, i ≠ .rawLevelChange n l) → exec i s = .next s) ∧
    (∀ n l, exec (.rawLevelChange n l) s = .next (s.setLine n { s.line n with wire := l })) ∧
    (∀ p, s.permitHigh p = false) ∧ s.alertLow = false ∧ ∀ n, s.driven n = none

/-- What the end of a reset leaves, each piece of state at the value that its own rule gives. That either of the two
rises ends a reset only once the other line is high too is the model's reading of R173 (log entry 7). That the wiring's
level at each pin is kept and that a wiring fault ends is the model's choice (log entry 2). -/
def Obligations.ResetEnds : Prop :=
  ∀ s : State,
    (s.supplyLow = true → exec .resetnRelease s = .next { s with resetnLow := false }) ∧
    (s.resetnLow = true → ∃ t : State, exec .powerOnReset s = .next t ∧ t.supplyLow = false ∧
      (∀ p, t.link p = { s.link p with incoming := none }) ∧ t.cell = { s.cell with incoming := none } ∧
      { t with supplyLow := s.supplyLow, links := s.links, cell := s.cell } = s) ∧
    ∀ i : Instr, (i = .resetnRelease ∧ s.supplyLow = false) ∨ (i = .powerOnReset ∧ s.resetnLow = false) →
      ∃ t : State, exec i s = .next t ∧ t.mode = .config ∧ t.inReset = false ∧
        (∀ p, t.cal.get p = { c := 0, s := 0, ox := 0, oy := 0, oz := 0, rxy := 0, rz := 0, loaded := false } ∧
          (t.profiles.get p).full = { decel := 5000, react := 20, cap := 1500 } ∧
          (t.profiles.get p).reduced = { decel := 2500, react := 20, cap := 250 } ∧ t.timing.quota.get p = 8 ∧
          t.record p = { requested := .full, forced := none, inUse := .full, pending := false, last := none,
                         fresh := false } ∧
          (t.guard p).state = .detached ∧ (t.guard p).causes = ⟨false, false, false, false, false, false⟩ ∧
          (t.guard p).resumeRequested = false ∧ (t.guard p).stopAcknowledged = false ∧
          (t.guard p).reportTimer = none ∧
          (t.link p).reply = { echo := 0, status := ⟨.detached, false, .full, false, false, false⟩, result := .ok,
                               notice := none, data := .empty } ∧
          (t.link p).queue = [] ∧ (t.link p).noticeLost = false ∧ (t.link p).errors = 0 ∧
          (t.link p).incoming = none ∧
          t.events.waitMs.get p = ⟨0, false⟩ ∧ t.events.haltMs.get p = ⟨0, false⟩) ∧
        t.timing.reportCode = 4 ∧ t.timing.entrySteps = 50 ∧ t.timing.waitSteps = 200 ∧ t.timing.clearance = 100 ∧
        (∀ k, t.slot k = { gen := 0, body := .free }) ∧ t.waitList = [] ∧
        t.cell = { reply := { echo := 0, mode := .config, clamped := false, alertLow := false, result := .ok,
                              data := .empty }
                   claimCursor := 0, mapCursor := 0, errors := 0, incoming := none } ∧
        t.keepOut = { geometry := .g32, cells := [], flags := ⟨false, false, false⟩ } ∧
        (∀ n, t.line n = { func := .unused, polarity := .activeHigh, debounce := 2,
                           filtered := decide ((s.line n).wire = .high), filterTimer := none, out := false,
                           wire := (s.line n).wire, wireHolds := false }) ∧
        t.events.mask = 0xFFF0 ∧ t.flagsWord = 0x8000 ∧ t.alertLow = false ∧ t.pending = s.pending

/-- The state right after reset has every law. Its input pins are low, the model's choice (log entry 1). -/
def Obligations.ResetIsSound : Prop := State.reset.Sound

/-! ### Coordinates, boxes and the envelope -/

/-- The three tests of boxes and the bin cut in terms of the points of the boxes (R3 to R6, R8): boxes intersect where
they share a point, conflict under a clearance where a point of each lie no further apart than it on any axis, and a box
is contained in another where all its points are. A bin part that is empty intersects no box. -/
def Obligations.BoxTestsAndBinCut : Prop :=
  (∀ b : Box, b.wellFormed = true ↔ b.xlo ≤ b.xhi ∧ b.ylo ≤ b.yhi ∧ b.zlo ≤ b.zhi) ∧
  (∀ a b : Box, a.wellFormed = true → b.wellFormed = true →
    (a.intersects b = true ↔ ∃ x y z, a.holds x y z ∧ b.holds x y z)) ∧
  (∀ a b : Box, a.wellFormed = true → (a.containedIn b = true ↔ ∀ x y z, a.holds x y z → b.holds x y z)) ∧
  (∀ (n : Nat) (a b : Box), a.conflicts n b = b.conflicts n a ∧ a.conflicts 0 b = a.intersects b) ∧
  (∀ (n : Nat) (a b : Box), a.wellFormed = true → b.wellFormed = true →
    (a.conflicts n b = true ↔ ∃ x y z x' y' z', a.holds x y z ∧ b.holds x' y' z' ∧
      (x - x').natAbs ≤ n ∧ (y - y').natAbs ≤ n ∧ (z - z').natAbs ≤ n)) ∧
  (∀ b : Box, partIntersects none b = false) ∧ (∀ a b : Box, partIntersects (some a) b = a.intersects b) ∧
  binVolume = ⟨0, 8191, 0, 8191, 0, 2047⟩ ∧
  ∀ b : Box, b.wellFormed = true →
    (b.binCut = none ↔ ¬ ∃ x y z, b.holds x y z ∧ binVolume.holds x y z) ∧
    ∀ c, b.binCut = some c →
      c.wellFormed = true ∧ ∀ x y z, c.holds x y z ↔ b.holds x y z ∧ binVolume.holds x y z

/-- R16's division by 16384, to nearest with halves away from zero. -/
def Obligations.RoundingToNearest : Prop :=
  (∀ n : Int, (roundQ14 n).natAbs = (n.natAbs + 8192) / 16384 ∧ (0 ≤ n → 0 ≤ roundQ14 n) ∧
    (n ≤ 0 → roundQ14 n ≤ 0) ∧ (16384 * roundQ14 n - n).natAbs ≤ 8192) ∧
  (∀ m : Int, 0 ≤ m → roundQ14 (16384 * m + 8192) = m + 1 ∧ roundQ14 (-(16384 * m + 8192)) = -(m + 1)) ∧
  ∀ c s x y : Int, within (-16384) 16384 c → within (-16384) 16384 s → within (-32768) 32767 x →
    within (-32768) 32767 y →
    within (-65536) 65536 (roundQ14 (c * x - s * y)) ∧ within (-65536) 65536 (roundQ14 (s * x + c * y))

/-- The braking term, the reaction term and the stopping distance (R18, R19, R20), for every profile and speed in range:
each term is the least whole number that its quotient does not exceed, and reaches its largest value at the ends of the
ranges. -/
def Obligations.StoppingDistance : Prop :=
  ∀ (prof : Profile) (v : Nat), prof.inRange → v ≤ 4095 →
    (∀ n, brakingTerm prof v ≤ n ↔ 5 * v ^ 2 ≤ n * prof.decel) ∧
    (0 < v → 1 ≤ brakingTerm prof v) ∧ (v = 0 → brakingTerm prof v = 0) ∧ brakingTerm prof v ≤ 167691 ∧
    (v = 4095 → prof.decel = 500 → brakingTerm prof v = 167691) ∧ 5 * v ^ 2 ≤ 83845125 ∧
    (∀ n, reactionTerm prof v ≤ n ↔ v * prof.react ≤ n * 100) ∧
    (0 < v → 0 < prof.react → 1 ≤ reactionTerm prof v) ∧
    (v = 0 ∨ prof.react = 0 → reactionTerm prof v = 0) ∧ reactionTerm prof v ≤ 10443 ∧
    (v = 4095 → prof.react = 255 → reactionTerm prof v = 10443) ∧ v * prof.react ≤ 1044225 ∧
    stoppingDistance prof v = min (brakingTerm prof v + reactionTerm prof v) 4095 ∧
    brakingTerm prof v + reactionTerm prof v ≤ 178134 ∧ stoppingDistance prof v ≤ 4095

/-- R23: the saturations of the tool point and of the swept box, each coordinate to the nearer end of -16384..16383 (R17,
R21), never change the bin part. -/
def Obligations.SaturationKeepsBinPart : Prop :=
  ∀ (cal : Calibration) (xa ya za : Int) (d : Nat), cal.inRange → within (-32768) 32767 xa →
    within (-32768) 32767 ya → within (-32768) 32767 za → d ≤ 4095 →
    let saturated := fun x : Int => max (-16384) (min 16383 x)
    let exact := exactToolPoint cal xa ya za
    toolPoint cal xa ya za = { x := saturated exact.x, y := saturated exact.y, z := saturated exact.z } ∧
    (∀ pt : Point, sweptBox cal pt d =
      let e := exactSweptBox cal pt d
      { xlo := saturated e.xlo, xhi := saturated e.xhi, ylo := saturated e.ylo, yhi := saturated e.yhi
        zlo := saturated e.zlo, zhi := saturated e.zhi }) ∧
    (sweptBox cal (toolPoint cal xa ya za) d).binCut = (exactSweptBox cal (exactToolPoint cal xa ya za) d).binCut

/-- In every geometry (R145) the cells tile the bin, and a box touches just the cells with which it shares a point. A box
touches a group where one of the cells that it touches holds the group's code; what it touches of the active groups is
just those of them that it touches, and a bin part intrudes where it is not empty and touches one (R114, R148). A cell's
code is the one that the map lists for it. -/
def Obligations.CellsTileTheBin : Prop :=
  ([Geometry.g64, .g32, .g16].map fun g => (g.nxy, g.nz, g.edgeXY, g.edgeZ)) =
    [(64, 1, 128, 2048), (32, 4, 256, 512), (16, 16, 512, 128)] ∧
  (∀ (s : State) (i : Nat) (g : Group), s.MapCanonical →
    (cellCode s.keepOut.cells i = some g ↔ (i, g) ∈ s.keepOut.cells)) ∧
  (∀ (s : State) (b : Box) (g : Group), s.MapCanonical →
    (s.keepOut.touchesGroup b g = true ↔
      ∃ i, i < 4096 ∧ cellCode s.keepOut.cells i = some g ∧ touchesCell s.keepOut.geometry b i = true)) ∧
  (∀ (s : State) (b : Box) (g : Group),
    g ∈ s.activeGroupsTouched b ↔ s.groupActive g = true ∧ s.keepOut.touchesGroup b g = true) ∧
  (∀ (s : State) (part : Option Box),
    s.partIntrudes part = true ↔
      ∃ b g, part = some b ∧ s.groupActive g = true ∧ s.keepOut.touchesGroup b g = true) ∧
  (∀ (s : State) (part : Option Box) (g : Group),
    s.partTouches part g = true ↔ ∃ b, part = some b ∧ s.keepOut.touchesGroup b g = true) ∧
  (∀ (g : Geometry) (x y z : Int), binVolume.holds x y z →
    ∃ i, i < 4096 ∧ (cellBox g i).holds x y z ∧ ∀ j, j < 4096 → (cellBox g j).holds x y z → j = i) ∧
  ∀ (g : Geometry) (b : Box) (i : Nat), b.wellFormed = true → b.containedIn binVolume = true → i < 4096 →
    (cellBox g i).containedIn binVolume = true ∧
    (touchesCell g b i = true ↔ ∃ x y z, b.holds x y z ∧ (cellBox g i).holds x y z) ∧
    (i ∈ touchedCells g b ↔ touchesCell g b i = true)

/-! ### Frames and replies -/

/-- Every command that a frame carries is read back from the frame written for it, which has its link's size and a
right CRC. -/
def Obligations.FrameRoundTrip : Prop :=
  ∀ (i : Instr) (link : Link) (bytes : List Byte), i.wellFormed = true → encodeFrame i = some (link, bytes) →
    decodeFrame link bytes = i ∧
    (i ≠ .frameFailed link → bytes.length = link.frameSize ∧ frameValid link bytes = true ∧
      byteAt bytes (link.frameSize - 1) = crc8 (bytes.take (link.frameSize - 1)))

/-- How a frame is judged (R175 to R178): short frames and frames with a wrong CRC fail, bytes beyond the frame size are
ignored, a sound frame of a kind that its link does not define is UNKNOWN_KIND, and one of a defined kind is the command
of that kind with the fields that stand in its bytes, whatever the bytes that no layout names hold (sections 9.5 and 9.6,
R185). A field of two bytes has its low byte first, and a box stands as six signed fields of two bytes each, xlo first and
zhi last. The CRC is the one of R176, bit by bit. -/
def Obligations.FrameJudgement : Prop :=
  (crc8 [] = 0xFF ∧ ∀ (l : List Byte) (b : Byte), crc8 (l ++ [b]) =
    (List.range 8).foldl (fun (r : Byte) n => if r.getLsbD 7 = b.getLsbD (7 - n) then r <<< 1 else (r <<< 1) ^^^ 0x07)
      (crc8 l)) ∧
  (∀ p : Arm, (Link.arm p).frameSize = 16 ∧ ∀ k : Byte, (Link.arm p).kindDefined k = decide (k.toNat ≤ 0x09)) ∧
  (Link.cell.frameSize = 32 ∧ ∀ k : Byte, Link.cell.kindDefined k = decide (k.toNat ≤ 0x1D)) ∧
  (∀ (f : List Byte) (n : Nat), (halfAt f n).toNat = (byteAt f n).toNat + 256 * (byteAt f (n + 1)).toNat) ∧
  (∀ (f : List Byte) (n : Nat), byteAt f n = f.getD n 0 ∧
    boxAt f n = { xlo := halfAt f n, xhi := halfAt f (n + 2), ylo := halfAt f (n + 4), yhi := halfAt f (n + 6)
                  zlo := halfAt f (n + 8), zhi := halfAt f (n + 10) }) ∧
  (∀ r : RawBox, boxOf r = { xlo := r.xlo.toInt, xhi := r.xhi.toInt, ylo := r.ylo.toInt, yhi := r.yhi.toInt
                             zlo := r.zlo.toInt, zhi := r.zhi.toInt }) ∧
  ∀ (link : Link) (f : List Byte),
    (f.length < link.frameSize → decodeFrame link f = .frameFailed link) ∧
    (link.frameSize ≤ f.length →
      byteAt f (link.frameSize - 1) ≠ crc8 (f.take (link.frameSize - 1)) → decodeFrame link f = .frameFailed link) ∧
    (link.frameSize ≤ f.length → ∀ extra, decodeFrame link (f ++ extra) = decodeFrame link f) ∧
    (link.frameSize ≤ f.length → byteAt f (link.frameSize - 1) = crc8 (f.take (link.frameSize - 1)) →
      (link.kindDefined (byteAt f 0) = false → decodeFrame link f = .unknownKind link (byteAt f 0)) ∧
      (link.kindDefined (byteAt f 0) = true →
        (∃ rest, frameContent (decodeFrame link f) = some (link, byteAt f 0 :: rest)) ∧
        ((∃ p, link = .arm p) → RequestReads f (decodeFrame link f)) ∧
        (link = .cell → CommandReads f (decodeFrame link f))))

/-- The reply to a valid frame (R177, R181): the echo, the result and the data, the state as the event left it, and on an
arm link the oldest notice, which leaves the queue. Nothing else changes. -/
def Obligations.ReplyReplacesSlot : Prop :=
  (∀ (s : State) (p : Arm) (kind : Byte) (r : Result) (d : ArmData),
    let t := s.replyArm p kind r d
    (t.link p).reply =
      { echo := kind
        status := { state := (s.guard p).state, noticeLost := (s.link p).noticeLost, inUse := (s.record p).inUse,
                    pending := (s.record p).pending, resumeRequested := (s.guard p).resumeRequested,
                    stopAcknowledged := (s.guard p).stopAcknowledged }
        result := r, notice := (s.link p).queue.head?, data := d } ∧
    (t.link p).queue = (s.link p).queue.tail ∧ (t.link p).noticeLost = (s.link p).noticeLost ∧
    (t.link p).errors = (s.link p).errors ∧ (t.link p).incoming = (s.link p).incoming ∧
    t.link p.other = s.link p.other ∧ { t with links := s.links } = s) ∧
  ∀ (s : State) (kind : Byte) (r : Result) (c : Bool) (d : CellData),
    let t := s.replyCell kind r c d
    t.cell.reply = { echo := kind, mode := s.mode, clamped := c, alertLow := s.alertLow, result := r, data := d } ∧
    { t with cell := s.cell } = s ∧
    t.cell.claimCursor = s.cell.claimCursor ∧ t.cell.mapCursor = s.cell.mapCursor ∧ t.cell.errors = s.cell.errors ∧
    t.cell.incoming = s.cell.incoming

/-- The bytes of every reply read back by its layout (sections 9.4 to 9.6, R176, R185, R186): an arm reply has 16 bytes
and a cell controller reply 32, the last is the CRC of those before it, and the echo, the state or flag byte, the
result, the notice and the data stand where their layouts put them, for data that fit their fields, as those of every
reply built do (StepKeepsRanges); the state, verdict, flag and cause bytes are read back bit by bit, and the codes are
those of section 9.4. -/
def Obligations.ReplyByteLayouts : Prop :=
  ([Result.ok, .granted, .waiting, .retired, .releasing, .refusedMode, .refusedState, .notReady, .badBox, .badArg,
    .quota, .noSlot, .waitBusy, .cycle, .staleHandle, .notOwner, .calBad, .crcFail, .unknownKind].map Result.code =
      List.range 19 ∧
    [NoticeKind.granted, .lapsed, .waitExpired, .retired, .revoked, .purged, .cancelled].map NoticeKind.code =
      [1, 2, 3, 4, 5, 6, 7] ∧
    [ClaimState.free, .waiting, .granted, .occupied, .releasing].map ClaimState.code = [0, 1, 2, 3, 4] ∧
    [ArmState.detached, .run, .stopped, .lost].map ArmState.code = [0, 1, 2, 3] ∧
    [Place.outside, .contained, .escaped].map Place.code = [0, 1, 2] ∧
    [Arm.a, .b].map armCode = [0, 1] ∧ [ClaimClass.normal, .urgent].map ClaimClass.code = [0, 1] ∧
    [ProfileName.full, .reduced].map ProfileName.code = [0, 1] ∧
    [none, some ProfileName.full, some .reduced].map forcedCode = [0, 1, 2] ∧
    [none, some Group.g1, some .g2, some .g3].map mapCode = [0, 1, 2, 3] ∧
    [LineFunction.unused, .guardIn .g1, .guardIn .g2, .guardIn .g3, .estopIn, .permitMirror .a, .permitMirror .b,
      .alertMirror, .waitOut .a, .waitOut .b, .generalOut].map LineFunction.code = List.range 11) ∧
  (∀ t : ArmStatus, (t.byte.extractLsb' 0 3).toNat = t.state.code ∧ t.byte.getLsbD 3 = t.noticeLost ∧
    (t.byte.getLsbD 4).toNat = t.inUse.code ∧ t.byte.getLsbD 5 = t.pending ∧ t.byte.getLsbD 6 = t.resumeRequested ∧
    t.byte.getLsbD 7 = t.stopAcknowledged) ∧
  (∀ v : Verdict, (v.byte.extractLsb' 0 2).toNat = v.place.code ∧ v.byte.getLsbD 2 = v.intrusion ∧
    v.byte.getLsbD 3 = v.overspeed ∧ v.byte.extractLsb' 4 4 = 0) ∧
  (∀ r : CellReply, r.flagByte.getLsbD 0 = (r.mode == .run) ∧ r.flagByte.getLsbD 1 = r.clamped ∧
    r.flagByte.getLsbD 2 = r.alertLow ∧ r.flagByte.extractLsb' 3 5 = 0) ∧
  (∀ c : CauseSet, c.byte.getLsbD 0 = c.envelope ∧ c.byte.getLsbD 1 = c.intrusion ∧ c.byte.getLsbD 2 = c.overspeed ∧
    c.byte.getLsbD 3 = c.estop ∧ c.byte.getLsbD 4 = c.supervisor ∧ c.byte.getLsbD 5 = c.link ∧
    c.byte.extractLsb' 6 2 = 0) ∧
  (∀ r : ArmReply, r.data.Fits →
    r.bytes.length = 16 ∧ byteAt r.bytes 15 = crc8 (r.bytes.take 15) ∧ byteAt r.bytes 0 = r.echo ∧
    byteAt r.bytes 1 = r.status.byte ∧ (byteAt r.bytes 2).toNat = r.result.code ∧ NoticeReads r.bytes r.notice ∧
    ArmDataReads r.bytes r.data) ∧
  ∀ r : CellReply, r.data.Fits →
    r.bytes.length = 32 ∧ byteAt r.bytes 31 = crc8 (r.bytes.take 31) ∧ byteAt r.bytes 0 = r.echo ∧
    byteAt r.bytes 1 = r.flagByte ∧ (byteAt r.bytes 2).toNat = r.result.code ∧ CellDataReads r.bytes r.data

/-- A failed frame (R178, R184): the link's error counter, its LINK_ERR flag and the failure reply, and nothing else; the
notice queue is not touched. -/
def Obligations.FailedFrameCounted : Prop :=
  ∀ s : State, s.inReset = false →
    (∀ p, exec (.frameFailed (.arm p)) s = .next
      { s with
        links := s.links.set p
          { s.link p with
            errors := min ((s.link p).errors + 1) 15
            reply :=
              { echo := 0
                status := { state := (s.guard p).state, noticeLost := (s.link p).noticeLost,
                            inUse := (s.record p).inUse, pending := (s.record p).pending,
                            resumeRequested := (s.guard p).resumeRequested,
                            stopAcknowledged := (s.guard p).stopAcknowledged }
                result := .crcFail, notice := none, data := .empty } }
        events :=
          { s.events with sticky := { s.events.sticky with linkErr := s.events.sticky.linkErr.set p true } } }) ∧
    ∃ t : State, exec (.frameFailed .cell) s = .next t ∧
      t.events = { s.events with sticky := { s.events.sticky with linkErrCell := true } } ∧
      t.cell =
        { s.cell with
          errors := min (s.cell.errors + 1) 15
          reply := { echo := 0, mode := s.mode, clamped := false, alertLow := t.alertLow, result := .crcFail,
                     data := .empty } } ∧
      { t with cell := s.cell, events := s.events } = s

/-! ### Arm requests -/

/-- NOP on an arm link is answered OK, and a kind that a link does not define UNKNOWN_KIND, in either device mode and in
every arm state, with no effect beyond the reply (R177, R134). That NOP is answered OK in CONFIG too follows R177 and
R46 against the table's summary of the row (log entry 6). -/
def Obligations.NopAndUnknownKind : Prop :=
  ∀ s : State, s.inReset = false →
    (∀ p, exec (.nop p) s = .next (s.replyArm p 0x00 .ok .empty)) ∧
    (∀ p kind, 0x09 < kind.toNat →
      exec (.unknownKind (.arm p) kind) s = .next (s.replyArm p kind .unknownKind .empty)) ∧
    ∀ kind, 0x1D < kind.toNat →
      exec (.unknownKind .cell kind) s = .next (s.replyCell kind .unknownKind false .empty)

/-- In CONFIG every arm request but NOP is answered REFUSED_MODE, and for a LOST arm every one but NOP and REPORT
REFUSED_STATE; nothing but the reply changes (R177, R134). That a LOST arm's RELEASE is refused with the rest, against
R120's words on it, is the model's reading (log entry 18). -/
def Obligations.ArmRequestsTurnedAway : Prop :=
  ∀ (i : Instr) (s : State) (p : Arm) (kind : Byte) (rest : List Byte), s.inReset = false → i.wellFormed = true →
    frameContent i = some (.arm p, kind :: rest) → kind.toNat ≤ 0x09 → kind ≠ 0x00 →
    (s.mode = .config → exec i s = .next (s.replyArm p kind .refusedMode .empty)) ∧
    (s.mode = .run → s.armState p = .lost → kind ≠ 0x03 →
      exec i s = .next (s.replyArm p kind .refusedState .empty))

/-- ATTACH (R123): in device RUN a DETACHED arm with a fresh, OUTSIDE report within its cap enters RUN while the e-stop
is inactive, its report timer started for T_report and its permit high; otherwise it is refused in the order of the checks. -/
def Obligations.AttachEntersRun : Prop :=
  ∀ (p : Arm) (s : State), s.inReset = false →
    (s.mode = .config → exec (.attach p) s = .next (s.replyArm p 0x01 .refusedMode .empty)) ∧
    (s.mode = .run →
      (∀ l, s.armState p = .detached → (s.record p).fresh = true → (s.record p).last = some l →
        l.verdict.place = .outside → l.verdict.overspeed = false → s.estopActive = false →
        let t := (s.setGuard p
            { s.guard p with state := .run, reportTimer := some (reportTimeout s.timing.reportCode) }).replyArm
            p 0x01 .ok .empty
        exec (.attach p) s = .next t ∧ t.permitHigh p = true ∧ (t.link p).reply.status.state = .run) ∧
      (s.armState p ≠ .detached → exec (.attach p) s = .next (s.replyArm p 0x01 .refusedState .empty)) ∧
      (s.armState p = .detached →
        ((s.record p).fresh = false ∨ (s.record p).last = none ∨ s.estopActive = true ∨
          ∃ l, (s.record p).last = some l ∧ (l.verdict.place ≠ .outside ∨ l.verdict.overspeed = true)) →
        exec (.attach p) s = .next (s.replyArm p 0x01 .notReady .empty)))

/-- DETACH (R124): in device RUN an arm in RUN with no claims enters DETACHED, its report timer stopped, its permit
low and its fresh flag clear; any other arm is refused. -/
def Obligations.DetachLeavesRun : Prop :=
  ∀ (p : Arm) (s : State), s.inReset = false →
    (s.mode = .config → exec (.detach p) s = .next (s.replyArm p 0x02 .refusedMode .empty)) ∧
    (s.mode = .run →
      (s.armState p = .run → s.countOf p = 0 →
        let t := ((s.setGuard p { s.guard p with state := .detached, reportTimer := none }).setRecord p
            { s.record p with fresh := false }).replyArm p 0x02 .ok .empty
        exec (.detach p) s = .next t ∧ t.permitHigh p = false ∧ (t.link p).reply.status.state = .detached) ∧
      (s.armState p ≠ .run ∨ s.countOf p ≠ 0 →
        exec (.detach p) s = .next (s.replyArm p 0x02 .refusedState .empty)))

/-- An accepted REPORT's computed part (R101, R103, R107, R112 to R115, R119): the profile choice, the envelope, the
verdict, which is CONTAINED where one single live claim of the arm contains the bin part, the record that takes them, the
reply that carries the verdict and d, and what no report changes. -/
def Obligations.ReportRecorded : Prop :=
  ∀ (p : Arm) (arg : Byte) (xa ya za v : Half) (s : State), s.inReset = false → s.mode = .run →
    ∃ (t : State) (l : LastReport), exec (.report p arg xa ya za v) s = .next t ∧
      let r := s.record p
      let speed := min v.toNat 4095
      let request : ProfileName := if arg.getLsbD 0 then .reduced else .full
      let target := r.forced.getD request
      let pair := s.profiles.get p
      let reduced := target = .reduced ∧ (r.inUse = .reduced ∨ speed ≤ pair.reduced.cap)
      let prof := if reduced then pair.reduced else pair.full
      let d := stoppingDistance prof speed
      let part := l.swept.binCut
      l.swept = sweptBox (s.cal.get p) (toolPoint (s.cal.get p) xa.toInt ya.toInt za.toInt) d ∧
      l.binPart = part ∧
      (l.verdict.place = .outside ↔ part = none) ∧
      (l.verdict.place = .contained ↔
        ∃ b k c, part = some b ∧ LiveAt s k c ∧ c.owner = p ∧ b.containedIn c.box = true) ∧
      (l.verdict.intrusion = true ↔
        ∃ b g, part = some b ∧ s.groupActive g = true ∧ s.keepOut.touchesGroup b g = true) ∧
      (l.verdict.overspeed = true ↔ prof.cap < speed) ∧
      (t.record p).last = some l ∧ (t.record p).requested = request ∧ (t.record p).forced = r.forced ∧
      (t.record p).inUse = (if reduced then .reduced else .full) ∧
      ((t.record p).pending = true ↔ target = .reduced ∧ ¬ reduced) ∧
      ((t.record p).fresh = false ↔ s.armState p = .run ∧
        (l.verdict.place = .escaped ∨ l.verdict.intrusion = true ∨ l.verdict.overspeed = true)) ∧
      t.record p.other = s.record p.other ∧
      (t.link p).reply.echo = 0x03 ∧ (t.link p).reply.result = .ok ∧ (t.link p).reply.status = t.armStatus p ∧
      (t.link p).reply.data = .report l.verdict d ∧
      t.mode = s.mode ∧ t.cal = s.cal ∧ t.profiles = s.profiles ∧ t.timing = s.timing ∧ t.cell = s.cell ∧
      t.keepOut = s.keepOut ∧ t.lines = s.lines ∧ t.resetnLow = s.resetnLow ∧ t.supplyLow = s.supplyLow ∧
      t.events.mask = s.events.mask ∧ t.events.waitMs = s.events.waitMs ∧ t.events.haltMs = s.events.haltMs

/-- What an accepted REPORT does to the guard controllers (R116, R127, R132, R135, R140): in RUN any failing part of the
verdict stops the arm with its cause, in STOPPED it adds no cause and may complete a resume, and in LOST it ends the
outage; in each of them the report timer starts again for the T_report of R132's table, and in DETACHED nothing
changes. -/
def Obligations.ReportReachesGuard : Prop :=
  (List.finRange 8).map reportTimeout = [2, 3, 4, 6, 8, 12, 16, 24] ∧
  (∀ s : State, s.reportMs = reportTimeout s.timing.reportCode) ∧
  ∀ (p : Arm) (arg : Byte) (xa ya za v : Half) (s : State), s.inReset = false → s.mode = .run →
    (s.guard p).Fits →
    ∃ (t : State) (l : LastReport), exec (.report p arg xa ya za v) s = .next t ∧ (t.record p).last = some l ∧
      let g := s.guard p
      let timer := some (reportTimeout s.timing.reportCode)
      let c := g.causes
      let stops := l.verdict.place = .escaped ∨ l.verdict.intrusion = true ∨ l.verdict.overspeed = true
      t.guard p.other = s.guard p.other ∧
      (g.state = .detached → t.guard p = g) ∧
      (g.state = .run → ¬ stops → t.guard p = { g with reportTimer := timer }) ∧
      (g.state = .run → stops → t.guard p =
        { state := .stopped
          causes := { c with envelope := c.envelope || l.verdict.place == .escaped
                             intrusion := c.intrusion || l.verdict.intrusion
                             overspeed := c.overspeed || l.verdict.overspeed }
          resumeRequested := false, stopAcknowledged := false, reportTimer := timer }) ∧
      (g.state = .stopped → (g.resumeRequested = true ∧ g.stopAcknowledged = true ∧ s.estopActive = false ∧ ¬ stops) →
        t.guard p = { g.resumed with reportTimer := timer }) ∧
      (g.state = .stopped →
        ¬ (g.resumeRequested = true ∧ g.stopAcknowledged = true ∧ s.estopActive = false ∧ ¬ stops) →
        t.guard p = { g with reportTimer := timer }) ∧
      (g.state = .lost → t.guard p =
        { g with state := .stopped, causes := { c with estop := c.estop || s.estopActive }, reportTimer := timer }) ∧
      t.events.sticky.quietOf =
        (if g.state = .lost ∨ (g.state = .run ∧ stops) then
          { s.events.sticky.quietOf with stop := s.events.sticky.stop.set p true }
        else s.events.sticky.quietOf)

/-- What an accepted REPORT does to the Claim Table (R75, R87, R88): every GRANTED claim of the arm that the new bin part
intersects is entered, and then every RELEASING one that it does not is retired with notice RETIRED and one re-screen;
the reply's notice is taken behind all of this. -/
def Obligations.ReportMarksEntryAndExit : Prop :=
  ∀ (p : Arm) (arg : Byte) (xa ya za v : Half) (s : State), s.inReset = false → s.mode = .run → s.WaitListExact →
    ∃ (m u : State) (l : LastReport) (d : Nat),
      exec (.report p arg xa ya za v) s = .next (u.replyArm p 0x03 .ok (.report l.verdict d)) ∧
      (u.record p).last = some l ∧
      (∀ k, m.slot k =
        { s.slot k with body :=
            match s.body k with
            | .granted c left =>
              if c.owner = p ∧ partIntersects l.binPart c.box = true then .occupied c else .granted c left
            | other => other }) ∧
      m.waitList = s.waitList ∧ m.links = s.links ∧ m.keepOut = s.keepOut ∧ m.lines = s.lines ∧
      m.timing = s.timing ∧ m.record p.other = s.record p.other ∧
      m.events.sticky.noticeLost = s.events.sticky.noticeLost ∧
      ∃ ks : List (Fin 24), ks.Pairwise (· < ·) ∧
        (∀ k, k ∈ ks ↔ ∃ c, s.body k = .releasing c ∧ c.owner = p ∧ partIntersects l.binPart c.box = false) ∧
        if ks = [] then u = m else TableEvent m u ks (some .retired) true id

/-- CLAIM in device RUN where nothing is kept (R49, R52, R65): the checks give their results in their order, and then
WAIT_BUSY and CYCLE; nothing but the reply changes. An arm's count is the number of its claims, and it has a wait where
one of them is WAITING (R35, R57). A claim is live where it is GRANTED, OCCUPIED or RELEASING, and a box is contained where
one live claim of the arm contains it (R29, R113). -/
def Obligations.ClaimTurnedAway : Prop :=
  (Arm.a.other = .b ∧ Arm.b.other = .a ∧ ∀ (s : State) (k : Fin 24) (c : ClaimData),
    ((s.body k).live = some c ↔ LiveAt s k c) ∧ ((s.body k).waitingClaim = some c ↔ WaitingAt s k c) ∧
    ((s.body k).claim = some c ↔ LiveAt s k c ∨ WaitingAt s k c)) ∧
  (∀ (s : State) (p : Arm),
    (∃ own : List (Fin 24), own.Pairwise (· < ·) ∧ s.countOf p = own.length ∧
      ∀ k, k ∈ own ↔ ∃ c, (LiveAt s k c ∨ WaitingAt s k c) ∧ c.owner = p) ∧
    (s.hasWaiting p = true ↔ ∃ k c, WaitingAt s k c ∧ c.owner = p) ∧
    (∀ k, (s.holdsLive p k = true ↔ ∃ c, LiveAt s k c ∧ c.owner = p) ∧
      (s.holdsWaiting p k = true ↔ ∃ c, WaitingAt s k c ∧ c.owner = p) ∧
      (s.holdsClaim p k = true ↔ ∃ c, (LiveAt s k c ∨ WaitingAt s k c) ∧ c.owner = p)) ∧
    ∀ b, s.liveClaimContains p b = true ↔ ∃ k c, LiveAt s k c ∧ c.owner = p ∧ b.containedIn c.box = true) ∧
  ∀ (p : Arm) (cls : Byte) (raw : RawBox) (s : State), s.inReset = false → s.mode = .run →
    let refusedWith (r : Result) := exec (.claim p cls raw) s = .next (s.replyArm p 0x04 r .empty)
    (s.armState p = .detached ∨ s.armState p = .lost → refusedWith .refusedState) ∧
    (s.armState p = .run ∨ s.armState p = .stopped →
      (1 < cls.toNat → refusedWith .badArg) ∧
      (cls.toNat ≤ 1 →
        ((boxOf raw).wellFormed = false ∨ (boxOf raw).binCut = none → refusedWith .badBox) ∧
        ∀ b, (boxOf raw).wellFormed = true → (boxOf raw).binCut = some b →
          (s.timing.quota.get p ≤ s.countOf p → refusedWith .quota) ∧
          (s.countOf p < s.timing.quota.get p → (∀ k, s.body k ≠ .free) → refusedWith .noSlot))) ∧
    ∀ c k, Admitted s p cls raw c k →
      let bl := s.screen p c.box (s.aheadOfNew c.cls)
      bl.isEmpty = false →
        (s.hasWaiting p = true → refusedWith .waitBusy) ∧
        (s.hasWaiting p = false → CycleStands s p bl → refusedWith .cycle)

/-- CLAIM kept (R34, R52, R57, R58, R60, R67): an admitted request that nothing blocks is GRANTED in the lowest FREE
slot, and one that is blocked, without a wait of its own arm and without the cycle condition, is kept there as WAITING
with what blocks it. Every WAITING claim stands ahead of a new request unless the request is URGENT and the wait NORMAL
(R54); the other arm's live claims that conflict with a candidate under the clearance block it, its waits that conflict
where they stand ahead, and the active groups that the candidate's box touches (R53, R55). A slot or a group that joins a
blocker set is the one member added. -/
def Obligations.ClaimKept : Prop :=
  (∀ bl : Blockers, (bl.isEmpty = true ↔ bl.slots = [] ∧ bl.groups = []) ∧
    (∀ k, (bl.addSlot k).slots.Pairwise (· < ·) ∧ (bl.addSlot k).groups = bl.groups ∧
      ∀ j, j ∈ (bl.addSlot k).slots ↔ j ∈ bl.slots ∨ j = k) ∧
    ∀ g, (bl.addGroup g).groups.Nodup ∧ (bl.addGroup g).slots = bl.slots ∧
      ∀ h, h ∈ (bl.addGroup g).groups ↔ h ∈ bl.groups ∨ h = g) ∧
  (∀ (s : State) (cls : ClaimClass) (k : Fin 24), s.aheadOfNew cls k = true ↔
    ∃ c, WaitingAt s k c ∧ ¬ (cls = .urgent ∧ c.cls = .normal)) ∧
  (∀ (s : State) (p : Arm) (box : Box) (ahead : Fin 24 → Bool),
    (s.screen p box ahead).slots.Pairwise (· < ·) ∧
    (∀ k, k ∈ (s.screen p box ahead).slots ↔
      ∃ c, (LiveAt s k c ∨ WaitingAt s k c ∧ ahead k = true) ∧ c.owner = p.other ∧
        c.box.conflicts s.timing.clearance box = true) ∧
    (∀ g, g ∈ (s.screen p box ahead).groups ↔ s.groupActive g = true ∧ s.keepOut.touchesGroup box g = true) ∧
    s.entryMs = 10 * s.timing.entrySteps ∧ s.waitMs = 10 * s.timing.waitSteps) ∧
  ∀ (p : Arm) (cls : Byte) (raw : RawBox) (s : State) (c : ClaimData) (k : Fin 24), s.inReset = false →
    s.mode = .run → Admitted s p cls raw c k →
    let bl := s.screen p c.box (s.aheadOfNew c.cls)
    (bl.isEmpty = true →
      ∃ t : State, exec (.claim p cls raw) s = .next (t.replyArm p 0x04 .granted (.handle k (s.slot k).gen)) ∧
        JoinedAt s t p k c.box (.granted c (10 * s.timing.entrySteps)) (fun _ => true) ∧ { t with slots := s.slots } = s) ∧
    (bl.isEmpty = false → s.hasWaiting p = false → ¬ CycleStands s p bl → s.WaitListExact →
      ∃ (t : State) (pre post : List (Fin 24)), exec (.claim p cls raw) s = .next (t.replyArm p 0x04 .waiting (.handle k (s.slot k).gen)) ∧
        JoinedAt s t p k c.box (.waiting c (10 * s.timing.waitSteps) bl) (fun j => !s.aheadOfNew c.cls j) ∧
        s.waitList = pre ++ post ∧ t.waitList = pre ++ k :: post ∧
        (∀ j ∈ pre, s.aheadOfNew c.cls j = true) ∧ (∀ j ∈ post, s.aheadOfNew c.cls j = false) ∧
        { t with slots := s.slots, waitList := s.waitList } = s)

/-- The handle checks of RELEASE, CANCEL and QUERY (R39) past the two gates: a handle that names no claim is
STALE_HANDLE, and one that names a claim of the other arm NOT_OWNER; RELEASE of a WAITING claim and CANCEL of any other
are REFUSED_STATE. -/
def Obligations.HandleChecks : Prop :=
  ∀ (p : Arm) (slot gen : Byte) (s : State), s.inReset = false → s.mode = .run → s.armState p ≠ .lost →
    (∀ i kind, (i, kind) ∈ [(Instr.release p slot gen, (0x05 : Byte)), (.cancel p slot gen, 0x06),
        (.query p slot gen, 0x07)] →
      ((∀ k, ¬ HandleNames s slot gen k) → exec i s = .next (s.replyArm p kind .staleHandle .empty)) ∧
      ∀ k c, HandleNames s slot gen k → (s.body k).claim = some c → c.owner ≠ p →
        exec i s = .next (s.replyArm p kind .notOwner .empty)) ∧
    ∀ k c, HandleNames s slot gen k → (s.body k).claim = some c → c.owner = p →
      ((s.body k).state = .waiting →
        exec (.release p slot gen) s = .next (s.replyArm p 0x05 .refusedState .empty)) ∧
      ((s.body k).state ≠ .waiting →
        exec (.cancel p slot gen) s = .next (s.replyArm p 0x06 .refusedState .empty))

/-- RELEASE and CANCEL of a claim of the arm (R66, R83): a GRANTED or OCCUPIED claim that the last bin part does not
intersect is retired, one that it intersects becomes RELEASING, and a RELEASING one stays; a cancelled wait is
retired. The reply tells the arm, so no notice of the retirement is queued. -/
def Obligations.ReleaseAndCancel : Prop :=
  ∀ (p : Arm) (slot gen : Byte) (s : State) (k : Fin 24) (c : ClaimData), s.inReset = false → s.mode = .run →
    s.armState p ≠ .lost → HandleNames s slot gen k → (s.body k).claim = some c → c.owner = p →
    s.binPart p = (s.record p).last.bind (fun l => l.binPart) ∧
    ((s.body k).state = .granted ∨ (s.body k).state = .occupied →
      (partIntersects (s.binPart p) c.box = true →
        exec (.release p slot gen) s = .next ((s.setBody k (.releasing c)).replyArm p 0x05 .releasing .empty)) ∧
      (partIntersects (s.binPart p) c.box = false → s.WaitListExact →
        ∃ t : State, exec (.release p slot gen) s = .next (t.replyArm p 0x05 .retired .empty) ∧
          TableEvent s t [k] none false id)) ∧
    ((s.body k).state = .releasing →
      exec (.release p slot gen) s = .next (s.replyArm p 0x05 .releasing .empty)) ∧
    ((s.body k).state = .waiting → s.WaitListExact →
      ∃ t : State, exec (.cancel p slot gen) s = .next (t.replyArm p 0x06 .retired .empty) ∧
        TableEvent s t [k] none false id)

/-- QUERY and LIST in device RUN of an arm that is not LOST (R42 to R45): QUERY answers the claim's state, class and
remaining time in tens of milliseconds rounded up; LIST answers the count and up to four of the arm's claims in
ascending slot order from the start index on, and clears NOTICE_LOST. The remaining time is that of the wait timer of a
WAITING claim and of the lapse timer of a GRANTED one, and 0 in every other state. -/
def Obligations.QueryAndList : Prop :=
  (∀ b : SlotBody,
    (b = .free → b.state = .free ∧ b.remaining = 0) ∧
    (∀ c left bl, b = .waiting c left bl → b.state = .waiting ∧ b.remaining = left) ∧
    (∀ c left, b = .granted c left → b.state = .granted ∧ b.remaining = left) ∧
    (∀ c, b = .occupied c → b.state = .occupied ∧ b.remaining = 0) ∧
    ∀ c, b = .releasing c → b.state = .releasing ∧ b.remaining = 0) ∧
  ∀ (p : Arm) (s : State), s.inReset = false → s.mode = .run → s.armState p ≠ .lost →
    (∀ slot gen k c, HandleNames s slot gen k → (s.body k).claim = some c → c.owner = p →
      ∃ tens : Nat, exec (.query p slot gen) s = .next (s.replyArm p 0x07 .ok (.query (s.body k).state c.cls tens)) ∧
        ∀ n, tens ≤ n ↔ (s.body k).remaining ≤ 10 * n) ∧
    ∀ start, ∃ (own : List (Fin 24)) (entries : List ListEntry),
      exec (.list p start) s = .next
        ((s.setLink p { s.link p with noticeLost := false }).replyArm p 0x08 .ok (.list own.length entries)) ∧
      own.Pairwise (· < ·) ∧ (∀ k, k ∈ own ↔ ∃ c, (s.body k).claim = some c ∧ c.owner = p) ∧
      entries.length ≤ 4 ∧ (entries.length < 4 → own.length ≤ start.toNat + entries.length) ∧
      ∀ n e, entries[n]? = some e → ∃ k, own[start.toNat + n]? = some k ∧ e.slot = k ∧ e.state = (s.body k).state ∧
        e.gen = (s.slot k).gen

/-- The resume handshake (R137 to R139): each act sets its own flag, and the second of the two completes the resume where
the resume check passes; an arm that is not STOPPED is refused. -/
def Obligations.ResumeHandshake : Prop :=
  CauseSet.empty = ⟨false, false, false, false, false, false⟩ ∧
  ∀ (p : Arm) (s : State), s.inReset = false →
    (s.mode = .run → s.armState p = .stopped →
      ((s.guard p).resumeRequested = true → MayResume s p →
        exec (.ackstop p) s = .next ((s.setGuard p (s.guard p).resumed).replyArm p 0x09 .ok .empty)) ∧
      (¬ ((s.guard p).resumeRequested = true ∧ MayResume s p) →
        exec (.ackstop p) s = .next
          ((s.setGuard p { s.guard p with stopAcknowledged := true }).replyArm p 0x09 .ok .empty))) ∧
    (s.mode = .run → s.armState p ≠ .stopped →
      exec (.ackstop p) s = .next (s.replyArm p 0x09 .refusedState .empty)) ∧
    ∀ arm : Byte, (1 < arm.toNat → exec (.resume arm) s = .next (s.replyCell 0x0F .badArg false .empty)) ∧
      (arm.toNat = armCode p →
        (s.armState p ≠ .stopped → exec (.resume arm) s = .next (s.replyCell 0x0F .refusedState false .empty)) ∧
        (s.armState p = .stopped → (s.guard p).stopAcknowledged = true → MayResume s p →
          exec (.resume arm) s = .next ((s.setGuard p (s.guard p).resumed).replyCell 0x0F .ok false .empty)) ∧
        (s.armState p = .stopped → ¬ ((s.guard p).stopAcknowledged = true ∧ MayResume s p) →
          exec (.resume arm) s = .next
            ((s.setGuard p { s.guard p with resumeRequested := true }).replyCell 0x0F .ok false .empty)))

/-! ### Cell controller commands -/

/-- R196: IDENT answers OK with the part code and the revision, NOP answers OK with no data, and neither changes
anything but the reply, which carries the device mode and the ALERT condition. -/
def Obligations.CellPolls : Prop :=
  ∀ s : State, s.inReset = false →
    exec .ident s = .next (s.replyCell 0x01 .ok false .identity) ∧ CellData.identity.bytes = [0x24, 1] ∧
    exec .cellNop s = .next (s.replyCell 0x00 .ok false .empty) ∧
    ∀ kind d, ((s.replyCell kind .ok false d).cell.reply.flagByte.getLsbD 0 = true ↔ s.mode = .run) ∧
      (s.replyCell kind .ok false d).cell.reply.flagByte.getLsbD 2 = s.alertLow

/-- In RUN the eight commands that are taken in CONFIG alone are answered REFUSED_MODE with CLAMPED clear, and nothing
but the reply changes (section 10.2's table of commands by mode). -/
def Obligations.SettingsRefusedInRun : Prop :=
  ∀ (i : Instr) (s : State) (kind : Byte) (rest : List Byte), s.inReset = false → s.mode = .run →
    i.wellFormed = true → frameContent i = some (.cell, kind :: rest) → 0x03 ≤ kind.toNat → kind.toNat ≤ 0x0A →
    exec i s = .next (s.replyCell kind .refusedMode false .empty)

/-- SET_MODE RUN (R188, R11): the commit check in CONFIG examines arm A first, and a commit changes the mode alone; in
RUN it is answered OK; a target that is neither mode is BAD_ARG. -/
def Obligations.SetModeRunCommits : Prop :=
  ∀ s : State, s.inReset = false →
    (s.mode = .config → Commits s .a → Commits s .b →
      exec (.setModeRun 1) s = .next ({ s with mode := .run }.replyCell 0x02 .ok false .empty)) ∧
    (s.mode = .config → ¬ Commits s .a →
      exec (.setModeRun 1) s = .next (s.replyCell 0x02 .calBad false (.calBad .a))) ∧
    (s.mode = .config → Commits s .a → ¬ Commits s .b →
      exec (.setModeRun 1) s = .next (s.replyCell 0x02 .calBad false (.calBad .b))) ∧
    (s.mode = .run → exec (.setModeRun 1) s = .next (s.replyCell 0x02 .ok false .empty)) ∧
    ∀ target : Byte, 1 < target.toNat → exec (.setModeRun target) s = .next (s.replyCell 0x02 .badArg false .empty)

/-- SET_MODE CONFIG (R189, R47, R104, R121, R183): refused while an arm runs, and otherwise one event over every block,
with everything else kept. -/
def Obligations.SetModeConfigTearsDown : Prop :=
  ∀ s : State, s.inReset = false →
    (s.mode = .config → exec .setModeConfig s = .next (s.replyCell 0x02 .ok false .empty)) ∧
    (s.mode = .run → (∃ p, s.armState p = .run) →
      exec .setModeConfig s = .next (s.replyCell 0x02 .refusedState false .empty)) ∧
    (s.mode = .run → (∀ p, s.armState p ≠ .run) →
      ∃ t : State, exec .setModeConfig s = .next (t.replyCell 0x02 .ok false .empty) ∧ t.mode = .config ∧ t.waitList = [] ∧
        (∀ k, t.slot k = if s.body k = .free then s.slot k else { gen := (s.slot k).gen + 1, body := .free }) ∧
        (∀ p, t.link p = { s.link p with queue := [], noticeLost := false } ∧
          t.guard p = { state := .detached, causes := CauseSet.empty, resumeRequested := false,
                        stopAcknowledged := false, reportTimer := none } ∧
          t.record p = { requested := .full, forced := (s.record p).forced, inUse := .full, pending := false,
                         last := none, fresh := false }) ∧
        { t with mode := s.mode, waitList := s.waitList, slots := s.slots, links := s.links, guards := s.guards,
                 records := s.records } = s)

/-- LOAD_CAL, LOAD_PROFILE and LOAD_TIMING in CONFIG (R10, R106, R192, R193): the clamped values replace the record, and
CLAMPED tells whether any was changed; an enumerated argument out of range is BAD_ARG. -/
def Obligations.LoadsReplaceSettings : Prop :=
  ∀ s : State, s.inReset = false → s.mode = .config →
    (∀ (arm : Byte) (c sn ox oy oz rxy rz : Half),
      (1 < arm.toNat → exec (.loadCal arm c sn ox oy oz rxy rz) s = .next (s.replyCell 0x03 .badArg false .empty)) ∧
      ∀ p, arm.toNat = armCode p →
        let r : Calibration :=
          { c := max (-16384) (min 16384 c.toInt), s := max (-16384) (min 16384 sn.toInt), ox := ox.toInt,
            oy := oy.toInt, oz := oz.toInt, rxy := max 0 (min 1023 rxy.toInt), rz := max 0 (min 1023 rz.toInt),
            loaded := true }
        let changed := decide (r.c ≠ c.toInt ∨ r.s ≠ sn.toInt ∨ r.rxy ≠ rxy.toInt ∨ r.rz ≠ rz.toInt)
        exec (.loadCal arm c sn ox oy oz rxy rz) s = .next
          ({ s with cal := s.cal.set p r }.replyCell 0x03 .ok changed .empty)) ∧
    (∀ (arm name : Byte) (decel react cap : Half),
      (1 < arm.toNat ∨ 1 < name.toNat →
        exec (.loadProfile arm name decel react cap) s = .next (s.replyCell 0x04 .badArg false .empty)) ∧
      ∀ p, arm.toNat = armCode p →
        let r : Profile := { decel := max 500 decel.toNat, react := min react.toNat 255, cap := min cap.toNat 4095 }
        let changed := decide (decel.toNat < 500 ∨ 255 < react.toNat ∨ 4095 < cap.toNat)
        (name.toNat = 0 → exec (.loadProfile arm name decel react cap) s = .next
          ({ s with profiles := s.profiles.set p { s.profiles.get p with full := r } }.replyCell 0x04 .ok changed
            .empty)) ∧
        (name.toNat = 1 → exec (.loadProfile arm name decel react cap) s = .next
          ({ s with profiles := s.profiles.set p { s.profiles.get p with reduced := r } }.replyCell 0x04 .ok changed
            .empty))) ∧
    ∀ (code entry wait : Byte) (clearance : Half) (qa qb : Byte),
      ∃ (t : Timing) (changed : Bool), exec (.loadTiming code entry wait clearance qa qb) s = .next
          ({ s with timing := t }.replyCell 0x05 .ok changed .empty) ∧
        t.reportCode.val = min code.toNat 7 ∧ t.entrySteps = max 1 entry.toNat ∧ t.waitSteps = max 1 wait.toNat ∧
        t.clearance = min clearance.toNat 1023 ∧ t.quota.get .a = max 1 (min qa.toNat 16) ∧
        t.quota.get .b = max 1 (min qb.toNat 16) ∧
        (changed = true ↔ t.reportCode.val ≠ code.toNat ∨ t.entrySteps ≠ entry.toNat ∨ t.waitSteps ≠ wait.toNat ∨
          t.clearance ≠ clearance.toNat ∨ t.quota.get .a ≠ qa.toNat ∨ t.quota.get .b ≠ qb.toNat)

/-- SET_LINE in CONFIG (R165): the three settings are written, the filter timer stops, and the filtered level is taken
from the raw level under the new polarity for an input and is inactive for an output; in CONFIG no group or e-stop
change that this makes reaches anything (R162). The wiring's level and fault are the model's own record (log entry 2). -/
def Obligations.SetLineWritesRecord : Prop :=
  ∀ (line func pol deb : Byte) (s : State), s.inReset = false → s.mode = .config → s.ConfigQuiet →
    (7 < line.toNat ∨ 10 < func.toNat ∨ 1 < pol.toNat →
      exec (.setLine line func pol deb) s = .next (s.replyCell 0x06 .badArg false .empty)) ∧
    ∀ (n : Fin 8) (f : LineFunction) (q : Polarity), line.toNat = n.val → func.toNat = f.code →
      pol.toNat = (if q = .activeLow then 1 else 0) →
      exec (.setLine line func pol deb) s = .next
        ((s.setLine n
          { s.line n with
            func := f, polarity := q, debounce := min deb.toNat 15, filterTimer := none
            filtered := decide (f.code ≤ 4 ∧ ((s.line n).wire = .high ↔ q = .activeHigh))
            wireHolds := (s.line n).wireHolds && decide (5 ≤ f.code) }).replyCell 0x06 .ok (decide (15 < deb.toNat))
          .empty)

/-- SET_GEOMETRY (R149) and MAP_CLEAR (R151) in CONFIG open every cell, and leave the cursor and group activity; in RUN
they are refused. -/
def Obligations.GeometryAndMapClear : Prop :=
  ∀ s : State, s.inReset = false →
    (s.mode = .run → exec .mapClear s = .next (s.replyCell 0x09 .refusedMode false .empty) ∧
      ∀ b, exec (.setGeometry b) s = .next (s.replyCell 0x07 .refusedMode false .empty)) ∧
    (s.mode = .config →
      (∃ t : State, exec .mapClear s = .next (t.replyCell 0x09 .ok false .empty) ∧
        (∀ i, i < 4096 → cellCode t.keepOut.cells i = none) ∧ t.keepOut.geometry = s.keepOut.geometry ∧
        t.cell.mapCursor = s.cell.mapCursor ∧ (∀ g, t.groupActive g = s.groupActive g) ∧
        { t with keepOut := { s.keepOut with cells := t.keepOut.cells } } = t ∧ { t with keepOut := s.keepOut } = s) ∧
      ∀ b : Byte,
        (2 < b.toNat → exec (.setGeometry b) s = .next (s.replyCell 0x07 .badArg false .empty)) ∧
        (b.toNat ≤ 2 → ∃ t : State, exec (.setGeometry b) s = .next (t.replyCell 0x07 .ok false .empty) ∧
          (∀ i, i < 4096 → cellCode t.keepOut.cells i = none) ∧
          t.keepOut.geometry = (if b.toNat = 0 then .g64 else if b.toNat = 1 then .g32 else .g16) ∧
          t.cell.mapCursor = s.cell.mapCursor ∧ (∀ g, t.groupActive g = s.groupActive g) ∧
          t.keepOut.flags = s.keepOut.flags ∧ { t with keepOut := s.keepOut } = s))

/-- MAP_FILL in CONFIG (R150, R147): every cell that the cut box touches takes the code and no other cell changes; the
reply gives their number and whether the cut changed a bound; a code or a box out of order changes nothing. -/
def Obligations.MapFillSetsTouchedCells : Prop :=
  ∀ (code : Byte) (raw : RawBox) (s : State), s.inReset = false → s.mode = .config → s.MapCanonical →
    (3 < code.toNat → exec (.mapFill code raw) s = .next (s.replyCell 0x08 .badArg false .empty)) ∧
    (code.toNat ≤ 3 → (boxOf raw).wellFormed = false ∨ (boxOf raw).binCut = none →
      exec (.mapFill code raw) s = .next (s.replyCell 0x08 .badBox false .empty)) ∧
    ∀ (g : Option Group) (b : Box), code.toNat = mapCode g → (boxOf raw).wellFormed = true →
      (boxOf raw).binCut = some b →
      ∃ (t : State) (n : Nat), exec (.mapFill code raw) s = .next
          (t.replyCell 0x08 .ok (decide (b ≠ boxOf raw)) (.cellsTouched n)) ∧
        (∀ i, i < 4096 → cellCode t.keepOut.cells i =
          if touchesCell s.keepOut.geometry b i = true then g else cellCode s.keepOut.cells i) ∧
        n = (List.range 4096).countP (touchesCell s.keepOut.geometry b) ∧ 1 ≤ n ∧ t.MapCanonical ∧
        t.keepOut.geometry = s.keepOut.geometry ∧ t.keepOut.flags = s.keepOut.flags ∧ { t with keepOut := s.keepOut } = s

/-- The cursors and the reads through them (R152, R153, R194): a value beyond a cursor's range is clamped with CLAMPED;
MAP_READ returns 64 cells and READ_CLAIM one slot, each from its cursor on, which moves past them and wraps. -/
def Obligations.CursorsAndTheirReads : Prop :=
  ∀ s : State, s.inReset = false →
    (∀ index : Half, s.mode = .config → ∃ c : Fin 4096, c.val = min index.toNat 4095 ∧
      exec (.mapCursor index) s = .next
        ({ s with cell := { s.cell with mapCursor := c } }.replyCell 0x0A .ok (decide (4095 < index.toNat)) .empty)) ∧
    (∃ (c : Fin 4096) (codes : List (Option Group)), c.val = (s.cell.mapCursor.val + 64) % 4096 ∧ codes.length = 64 ∧
      (∀ i, i < 64 → codes[i]? = some (cellCode s.keepOut.cells ((s.cell.mapCursor.val + i) % 4096))) ∧
      exec .mapRead s = .next
        ({ s with cell := { s.cell with mapCursor := c } }.replyCell 0x0B .ok false (.mapCodes codes))) ∧
    (∀ slot : Byte, ∃ c : Fin 24, c.val = min slot.toNat 23 ∧
      exec (.setCursor slot) s = .next
        ({ s with cell := { s.cell with claimCursor := c } }.replyCell 0x12 .ok (decide (23 < slot.toNat)) .empty)) ∧
    ∃ (c : Fin 24) (position : Nat), c.val = (s.cell.claimCursor.val + 1) % 24 ∧
      exec .readClaim s = .next
        ({ s with cell := { s.cell with claimCursor := c } }.replyCell 0x13 .ok false
          (.claimRecord s.cell.claimCursor (s.slot s.cell.claimCursor) position)) ∧
      (s.cell.claimCursor ∈ s.waitList → s.waitList[position]? = some s.cell.claimCursor) ∧
      (s.cell.claimCursor ∉ s.waitList → position = 0)

/-- READ_ARM, READ_LINES, READ_EVENTS and READ_COUNTERS (R171, R195, R200, R202): each answers OK with the state as it
stands and changes nothing but the reply. The raw level is the level that the line drives, or the wiring's where its
driver is off; that a wiring fault holds the pin at the wiring's level is the model's own record (R169, log entry 2). -/
def Obligations.PlainReads : Prop :=
  ∀ s : State, s.inReset = false →
    (∀ arm : Byte, (1 < arm.toNat → exec (.readArm arm) s = .next (s.replyCell 0x14 .badArg false .empty)) ∧
      ∀ p, arm.toNat = armCode p →
        exec (.readArm arm) s = .next (s.replyCell 0x14 .ok false (.armRecord (s.guard p) (s.record p)))) ∧
    (∃ readings : List LineReading, exec .readLines s = .next (s.replyCell 0x17 .ok false (.lines readings s.estopActive)) ∧
      readings.length = 8 ∧ ∀ n : Fin 8, readings[n.val]? =
        some { raw :=
                 match s.driven n with
                 | none => (s.line n).wire
                 | some l => if (s.line n).wireHolds then (s.line n).wire else l
               filtered := (s.line n).filtered, func := (s.line n).func, out := (s.line n).out }) ∧
    exec .readEvents s = .next (s.replyCell 0x18 .ok false (.events s.flagsWord s.events.mask)) ∧
    exec .readCounters s = .next (s.replyCell 0x1B .ok false
      (.counters [(s.link .a).errors, (s.link .b).errors, s.cell.errors]
        [s.events.waitMs.a, s.events.waitMs.b, s.events.haltMs.a, s.events.haltMs.b]))

/-- FORCE_PROFILE, SET_OUT and TOGGLE_OUT (R109, R170), in either device mode: the forced profile alone, and the named
lines' general-output values alone, all eight of which the reply shows. -/
def Obligations.ForcedProfileAndOutputs : Prop :=
  allLines = [0, 1, 2, 3, 4, 5, 6, 7] ∧
  ∀ s : State, s.inReset = false →
    (∀ arm value : Byte,
      (1 < arm.toNat ∨ 2 < value.toNat →
        exec (.forceProfile arm value) s = .next (s.replyCell 0x0D .badArg false .empty)) ∧
      ∀ p f, arm.toNat = armCode p → value.toNat = forcedCode f →
        exec (.forceProfile arm value) s = .next
          ((s.setRecord p { s.record p with forced := f }).replyCell 0x0D .ok false .empty)) ∧
    (∀ lines values : Byte, ∃ t : State, exec (.setOut lines values) s = .next
        (t.replyCell 0x15 .ok false (.outputs (allLines.map fun n => (t.line n).out))) ∧
      (∀ n : Fin 8, t.line n =
        { s.line n with out := if lines.getLsbD n then values.getLsbD n else (s.line n).out }) ∧
      { t with lines := s.lines } = s) ∧
    ∀ lines : Byte, ∃ t : State, exec (.toggleOut lines) s = .next
        (t.replyCell 0x16 .ok false (.outputs (allLines.map fun n => (t.line n).out))) ∧
      (∀ n : Fin 8, t.line n = { s.line n with out := if lines.getLsbD n then !(s.line n).out else (s.line n).out }) ∧
      { t with lines := s.lines } = s

/-- STOP (R129, R126, R131): an arm in RUN enters STOPPED with cause SUPERVISOR, its fresh flag clear and STOP_P set; a
STOPPED arm takes the cause and loses both handshake flags; the other causes and the report timer stay. Any other arm is
refused. -/
def Obligations.StopHoldsArm : Prop :=
  ∀ (p : Arm) (arm : Byte) (s : State), s.inReset = false →
    let held : Guard :=
      { s.guard p with
        state := .stopped, causes := { (s.guard p).causes with supervisor := true }
        resumeRequested := false, stopAcknowledged := false }
    (1 < arm.toNat → exec (.stop arm) s = .next (s.replyCell 0x0E .badArg false .empty)) ∧
    (arm.toNat = armCode p →
      (s.armState p = .run → exec (.stop arm) s = .next
        ((((s.setGuard p held).setRecord p { s.record p with fresh := false }).updSticky
          fun f => { f with stop := f.stop.set p true }).replyCell 0x0E .ok false .empty)) ∧
      (s.armState p = .stopped → exec (.stop arm) s = .next
        ((s.setGuard p held).replyCell 0x0E .ok false .empty)) ∧
      (s.armState p = .detached ∨ s.armState p = .lost →
        exec (.stop arm) s = .next (s.replyCell 0x0E .refusedState false .empty)))

/-- PURGE_ARM and PURGE_CLAIM (R92, R93): refused while the owner runs, and otherwise every claim of the arm, or the one
that the handle names, is retired with notice PURGED, and one re-screen follows. A kept CONTAINED is judged again as R118 says,
against all remaining live claims of the arm: after PURGE_CLAIM it stays CONTAINED where one of them, GRANTED ones
included, contains the recorded bin part. R139 and R141 say in so many words that such a purge makes the place ESCAPED;
that R118 is followed is the model's reading (log entry 9). -/
def Obligations.PurgesRetire : Prop :=
  ∀ s : State, s.inReset = false →
    (∀ (arm : Byte) (p : Arm),
      (1 < arm.toNat → exec (.purgeArm arm) s = .next (s.replyCell 0x10 .badArg false .empty)) ∧
      (arm.toNat = armCode p →
        (s.armState p = .run → exec (.purgeArm arm) s = .next (s.replyCell 0x10 .refusedState false .empty)) ∧
        (s.armState p ≠ .run → s.WaitListExact →
          ∃ (t : State) (ks : List (Fin 24)), exec (.purgeArm arm) s = .next (t.replyCell 0x10 .ok false (.purged ks.length)) ∧
            ks.Pairwise (· < ·) ∧ (∀ k, k ∈ ks ↔ ∃ c, (s.body k).claim = some c ∧ c.owner = p) ∧
            if ks = [] then t = s else TableEvent s t ks (some .purged) false id))) ∧
    ∀ slot gen : Byte,
      ((∀ k, ¬ HandleNames s slot gen k) →
        exec (.purgeClaim slot gen) s = .next (s.replyCell 0x11 .staleHandle false .empty)) ∧
      ∀ k c, HandleNames s slot gen k → (s.body k).claim = some c →
        (s.armState c.owner = .run →
          exec (.purgeClaim slot gen) s = .next (s.replyCell 0x11 .refusedState false .empty)) ∧
        (s.armState c.owner ≠ .run → s.WaitListExact →
          ∃ t : State, exec (.purgeClaim slot gen) s = .next (t.replyCell 0x11 .ok false (.purged 1)) ∧
            TableEvent s t [k] (some .purged) false id)

/-- CLEAR_EVENTS, SET_MASK, CLEAR_COUNTERS and SET_ACC_ENABLE (R199, R200, R202): a named sticky flag clears unless its
persisting condition holds, and the other three write just what they name. -/
def Obligations.EventUnitWrites : Prop :=
  ∀ s : State, s.inReset = false →
    (∀ named : Half, exec (.clearEvents named) s = .next
      ({ s with events := { s.events with sticky :=
          { stop := { a := s.events.sticky.stop.a && (!named.getLsbD 0 || decide (s.armState .a = ArmState.stopped))
                      b := s.events.sticky.stop.b && (!named.getLsbD 1 || decide (s.armState .b = ArmState.stopped)) }
            lost := { a := s.events.sticky.lost.a && (!named.getLsbD 2 || decide (s.armState .a = ArmState.lost))
                      b := s.events.sticky.lost.b && (!named.getLsbD 3 || decide (s.armState .b = ArmState.lost)) }
            linkErr := { a := s.events.sticky.linkErr.a && !named.getLsbD 4
                         b := s.events.sticky.linkErr.b && !named.getLsbD 5 }
            linkErrCell := s.events.sticky.linkErrCell && !named.getLsbD 6
            lapse := s.events.sticky.lapse && !named.getLsbD 7
            waitExpired := s.events.sticky.waitExpired && !named.getLsbD 8
            revoked := s.events.sticky.revoked && !named.getLsbD 9
            noticeLost := { a := s.events.sticky.noticeLost.a && !named.getLsbD 10
                            b := s.events.sticky.noticeLost.b && !named.getLsbD 11 } } } }.replyCell 0x19 .ok false
        .empty)) ∧
    (∀ mask : Half, exec (.setMask mask) s = .next
      ({ s with events := { s.events with mask := mask } }.replyCell 0x1A .ok false .empty)) ∧
    (∀ set : Byte, ∃ t : State, exec (.clearCounters set) s = .next (t.replyCell 0x1C .ok false .empty) ∧
      t.link .a = { s.link .a with errors := if set.getLsbD 0 then 0 else (s.link .a).errors } ∧
      t.link .b = { s.link .b with errors := if set.getLsbD 1 then 0 else (s.link .b).errors } ∧
      t.cell = { s.cell with errors := if set.getLsbD 2 then 0 else s.cell.errors } ∧
      t.events =
        { s.events with
          waitMs := { a := { s.events.waitMs.a with value := if set.getLsbD 3 then 0 else s.events.waitMs.a.value }
                      b := { s.events.waitMs.b with value := if set.getLsbD 4 then 0 else s.events.waitMs.b.value } }
          haltMs := { a := { s.events.haltMs.a with value := if set.getLsbD 5 then 0 else s.events.haltMs.a.value }
                      b := { s.events.haltMs.b with value := if set.getLsbD 6 then 0 else s.events.haltMs.b.value } } } ∧
      { t with links := s.links, cell := s.cell, events := s.events } = s) ∧
    ∀ enables : Byte, exec (.setAccEnable enables) s = .next
      ({ s with events :=
          { s.events with
            waitMs := { a := { s.events.waitMs.a with enabled := enables.getLsbD 0 }
                        b := { s.events.waitMs.b with enabled := enables.getLsbD 1 } }
            haltMs := { a := { s.events.haltMs.a with enabled := enables.getLsbD 2 }
                        b := { s.events.haltMs.b with enabled := enables.getLsbD 3 } } } }.replyCell 0x1D .ok false
        .empty)

/-- GROUP_SET that makes no activation or deactivation in device RUN, or that is taken in CONFIG (R155, R156, R162): the
supervisor flag alone takes the value, and the reply shows the three flags and activities. -/
def Obligations.GroupSetWritesFlag : Prop :=
  ∀ (group value : Byte) (s : State), s.inReset = false →
    ((group.toNat = 0 ∨ 3 < group.toNat ∨ 1 < value.toNat) →
      exec (.groupSet group value) s = .next (s.replyCell 0x0C .badArg false .empty)) ∧
    ∀ (g : Group) (v : Bool), group.toNat = mapCode (some g) → value.toNat = v.toNat →
      let t := { s with keepOut := { s.keepOut with flags := s.keepOut.flags.set g v } }
      s.mode = .config ∨ (v || s.groupLineActive g) = s.groupActive g →
      exec (.groupSet group value) s = .next (t.replyCell 0x0C .ok false
        (.groups t.keepOut.flags ⟨t.groupActive .g1, t.groupActive .g2, t.groupActive .g3⟩))

/-- The activation of a group in device RUN, by GROUP_SET or by a GUARD_IN line (R154 to R156, R158, R159): what
`GroupActivates` says of the state with its source changed; GROUP_SET answers OK with the flags and activities as they
then stand. That a GRANTED claim is revoked for its box, against R105's words on the recorded bin part, is the model's
reading (log entry 19). -/
def Obligations.GroupActivation : Prop :=
  ∀ (g : Group) (s : State), s.inReset = false → s.mode = .run → s.WaitListExact → s.groupActive g = false →
    (∀ group value : Byte, group.toNat = mapCode (some g) → value.toNat = 1 →
      let s0 := { s with keepOut := { s.keepOut with flags := s.keepOut.flags.set g true } }
      ∃ t : State, exec (.groupSet group value) s = .next (t.replyCell 0x0C .ok false
          (.groups s0.keepOut.flags ⟨s0.groupActive .g1, s0.groupActive .g2, s0.groupActive .g3⟩)) ∧
        GroupActivates s0 t g) ∧
    ∀ (n : Fin 8) (i : Instr) (s0 : State), (s.line n).func = .guardIn g → FilteredChange s n i s0 →
      s0.groupActive g = true → ∃ t : State, exec i s = .next t ∧ GroupActivates s0 t g

/-- The deactivation of a group in device RUN, by GROUP_SET or by a GUARD_IN line (R154 to R156, R161): what
`GroupDeactivates` says of the state with its source changed. -/
def Obligations.GroupDeactivation : Prop :=
  ∀ (g : Group) (s : State), s.inReset = false → s.mode = .run → s.WaitListExact → s.groupActive g = true →
    (∀ group value : Byte, group.toNat = mapCode (some g) → value.toNat = 0 → s.groupLineActive g = false →
      let s0 := { s with keepOut := { s.keepOut with flags := s.keepOut.flags.set g false } }
      ∃ t : State, exec (.groupSet group value) s = .next (t.replyCell 0x0C .ok false
          (.groups s0.keepOut.flags ⟨s0.groupActive .g1, s0.groupActive .g2, s0.groupActive .g3⟩)) ∧
        GroupDeactivates s0 t) ∧
    ∀ (n : Fin 8) (i : Instr) (s0 : State), (s.line n).func = .guardIn g → FilteredChange s n i s0 →
      s0.groupActive g = false → ∃ t : State, exec i s = .next t ∧ GroupDeactivates s0 t

/-! ### Timers, lines and the time base -/

/-- A lapse and a wait expiry (R63, R80): the claim whose timer has run out is retired with its notice and its event
flag, and a re-screen follows; a timer that is stopped or has time left does not expire (R1, log entry 5). -/
def Obligations.LapseAndWaitExpiry : Prop :=
  ∀ (k : Fin 24) (s : State), s.inReset = false →
    (∀ c, s.body k = .granted c 0 → s.WaitListExact → ∃ t : State, exec (.lapse k) s = .next t ∧
      TableEvent s t [k] (some .lapsed) false fun f => { f with lapse := true }) ∧
    ((∀ c, s.body k ≠ .granted c 0) → exec (.lapse k) s = .next s) ∧
    (∀ c bl, s.body k = .waiting c 0 bl → s.WaitListExact → ∃ t : State, exec (.waitExpiry k) s = .next t ∧
      TableEvent s t [k] (some .waitExpired) false fun f => { f with waitExpired := true }) ∧
    ((∀ c bl, s.body k ≠ .waiting c 0 bl) → exec (.waitExpiry k) s = .next s)

/-- The expiry of a report timer (R133, R96): the arm enters LOST with LINK among its causes, LOST_P is set, and its
WAITING claim is retired with notice CANCELLED; a timer that is stopped or has time left does not expire (R1, log
entry 5). -/
def Obligations.ReportTimerExpiryLosesArm : Prop :=
  ∀ (p : Arm) (s : State), s.inReset = false →
    ((s.guard p).reportTimer = some 0 → s.armState p = .run ∨ s.armState p = .stopped → s.WaitListExact →
      let lost := ((s.setGuard p
        { state := .lost, causes := { (s.guard p).causes with link := true }, resumeRequested := false,
          stopAcknowledged := false, reportTimer := none }).setRecord p { s.record p with fresh := false }).updSticky
        fun f => { f with lost := f.lost.set p true }
      ((∀ k, s.holdsWaiting p k = false) → exec (.reportTimerExpiry p) s = .next lost) ∧
      ∀ k, s.holdsWaiting p k = true → ∃ t : State, exec (.reportTimerExpiry p) s = .next t ∧
        TableEvent lost t [k] (some .cancelled) false id) ∧
    ((s.guard p).reportTimer ≠ some 0 → exec (.reportTimerExpiry p) s = .next s)

/-- The filter (R167): a raw level change at an input line starts the filter timer for the debounce time, or stops it
where the level has returned; a change of the filtered level of a line that feeds no block, or of a GUARD_IN line that
changes no group's activity or stands in CONFIG, is that change alone; a timer that is stopped or has time left does not
expire (R1, log entry 5). At an output line a raw level change is a wiring fault or the end of one, and reaches
nothing else (R169); that a fault holds the pin, and how it ends, is the model's choice (log entry 2). -/
def Obligations.FilterFollowsRawLevel : Prop :=
  (∀ (pol : Polarity) (level : Level), levelActive pol level = decide (level = .high ↔ pol = .activeHigh)) ∧
  (∀ f : LineFunction, f.isOutput = true ↔ 5 ≤ f.code) ∧
  ∀ (n : Fin 8) (s : State), s.inReset = false →
    let l := s.line n
    (∀ level : Level,
      let active := decide (level = .high ↔ l.polarity = .activeHigh)
      (l.func.code ≤ 4 → l.wire = level → exec (.rawLevelChange n level) s = .next s) ∧
      (l.func.code ≤ 4 → l.wire ≠ level → active = l.filtered →
        exec (.rawLevelChange n level) s = .next (s.setLine n { l with wire := level, filterTimer := none })) ∧
      (l.func.code ≤ 4 → l.wire ≠ level → active ≠ l.filtered → 0 < l.debounce →
        exec (.rawLevelChange n level) s = .next
          (s.setLine n { l with wire := level, filterTimer := some l.debounce })) ∧
      (5 ≤ l.func.code → exec (.rawLevelChange n level) s = .next
        (s.setLine n { l with wire := level, wireHolds := decide (s.driven n ≠ some level) }))) ∧
    (∀ (i : Instr) (s0 : State), FilteredChange s n i s0 →
      (l.func = .unused → exec i s = .next s0) ∧
      ∀ g, l.func = .guardIn g → s.mode = .config ∨ s0.groupActive g = s.groupActive g → exec i s = .next s0) ∧
    (l.filterTimer ≠ some 0 → exec (.filterTimerExpiry n) s = .next s)

/-- The e-stop through an ESTOP_IN line whose filtered level changes (R128, R140, R168): becoming active it stops every
arm in RUN and is a stop event for every STOPPED one; becoming inactive it re-checks the arms whose handshake is
complete; while another line holds it active nothing follows. -/
def Obligations.EstopStopsAndReleases : Prop :=
  ∀ (n : Fin 8) (s : State) (i : Instr) (s0 : State), s.inReset = false → (s.line n).func = .estopIn →
    FilteredChange s n i s0 →
    (s0.estopActive = s.estopActive → exec i s = .next s0) ∧
    (s.estopActive = false → s0.estopActive = true → ∃ t : State, exec i s = .next t ∧ t.estopActive = true ∧
      (∀ p, t.guard p =
        if s.armState p = .run ∨ s.armState p = .stopped then (s.guard p).stoppedBy .estop else s.guard p) ∧
      (∀ p, t.record p = { s.record p with fresh := (s.record p).fresh && !decide (s.armState p = .run) }) ∧
      t.events = { s.events with sticky := { s.events.sticky with stop :=
        { a := s.events.sticky.stop.a || decide (s.armState .a = .run)
          b := s.events.sticky.stop.b || decide (s.armState .b = .run) } } } ∧
      { t with guards := s0.guards, records := s0.records, events := s0.events } = s0) ∧
    (s.estopActive = true → s0.estopActive = false → ∃ t : State, exec i s = .next t ∧
      (∀ p, Rechecked s0 t p) ∧ { t with guards := s0.guards } = s0)

/-- A millisecond of the time base (R1, R43, R201): each enabled accumulator whose condition holds rises by one and stays
at 16,777,215 once there, and then a timer that had run its full time before this millisecond expires, since T + 1 ms is
the latest: its claim is retired or no longer waits, its arm is LOST, its line's filter has answered. That every running
timer has one millisecond less left, and that the latest expiry is this one, is the model's reading of R1 and R43 (log
entries 3 and 5). -/
def Obligations.MillisecondCounts : Prop :=
  ∀ s : State, s.inReset = false → ∃ m t : State, exec .accumulatorStep s = .next t ∧
    (∀ p, m.events.waitMs.get p =
      { s.events.waitMs.get p with
        value :=
          if (s.events.waitMs.get p).enabled = true ∧ s.hasWaiting p = true then
            min ((s.events.waitMs.get p).value + 1) 16777215 else (s.events.waitMs.get p).value }) ∧
    (∀ p, m.events.haltMs.get p =
      { s.events.haltMs.get p with
        value :=
          if (s.events.haltMs.get p).enabled = true ∧ (s.armState p = .stopped ∨ s.armState p = .lost) then
            min ((s.events.haltMs.get p).value + 1) 16777215 else (s.events.haltMs.get p).value }) ∧
    m.events.sticky = s.events.sticky ∧ m.events.mask = s.events.mask ∧
    (∀ k, m.slot k =
      { s.slot k with body :=
          match s.body k with
          | .waiting c left bl => .waiting c (left - 1) bl
          | .granted c left => .granted c (left - 1)
          | other => other }) ∧
    (∀ p, m.guard p = { s.guard p with reportTimer := (s.guard p).reportTimer.map (· - 1) }) ∧
    (∀ n, m.line n = { s.line n with filterTimer := (s.line n).filterTimer.map (· - 1) }) ∧
    { m with events := s.events, slots := s.slots, guards := s.guards, lines := s.lines } = s ∧
    (∃ is : List Instr, is.Nodup ∧ (∀ i, i ∈ is ↔ ExpiryDue s i) ∧ TakenInTurn is m t) ∧
    (∀ k c, s.body k = .granted c 0 → Retired s t k) ∧
    (∀ k c bl, s.body k = .waiting c 0 bl → (t.body k).waitingClaim = none) ∧
    (∀ p, (s.guard p).reportTimer = some 0 → s.armState p = .run ∨ s.armState p = .stopped → t.armState p = .lost) ∧
    ∀ n, (s.line n).filterTimer = some 0 → (t.line n).filterTimer = none

/-! ### Outputs -/

/-- The permits, the sixteen event flags, ALERT and the levels on output lines (R142, R166, R169, R172, R198, R199). -/
def Obligations.OutputsFollowState : Prop :=
  ∀ s : State, s.inReset = false →
    (∀ p, s.permitHigh p = true ↔ s.armState p = .run) ∧
    (∀ p : Arm, s.flagsWord.getLsbD (armCode p) = s.events.sticky.stop.get p ∧
      s.flagsWord.getLsbD (2 + armCode p) = s.events.sticky.lost.get p ∧
      s.flagsWord.getLsbD (4 + armCode p) = s.events.sticky.linkErr.get p ∧
      s.flagsWord.getLsbD (10 + armCode p) = s.events.sticky.noticeLost.get p) ∧
    s.flagsWord.getLsbD 6 = s.events.sticky.linkErrCell ∧ s.flagsWord.getLsbD 7 = s.events.sticky.lapse ∧
    s.flagsWord.getLsbD 8 = s.events.sticky.waitExpired ∧ s.flagsWord.getLsbD 9 = s.events.sticky.revoked ∧
    (s.estopActive = true ↔ ∃ n, (s.line n).func = .estopIn ∧ (s.line n).filtered = true) ∧
    (∀ g, s.groupLineActive g = true ↔ ∃ n, (s.line n).func = .guardIn g ∧ (s.line n).filtered = true) ∧
    (s.flagsWord.getLsbD 12 = true ↔ ∃ n, (s.line n).func = .estopIn ∧ (s.line n).filtered = true) ∧
    (s.flagsWord.getLsbD 13 = true ↔ ∃ g, s.groupActive g = true) ∧
    (s.flagsWord.getLsbD 14 = true ↔ s.waitList ≠ []) ∧ (s.flagsWord.getLsbD 15 = true ↔ s.mode = .config) ∧
    (∀ g, s.groupActive g = true ↔
      s.keepOut.flags.get g = true ∨ ∃ n, (s.line n).func = .guardIn g ∧ (s.line n).filtered = true) ∧
    (s.alertLow = true ↔ ∃ n, n < 16 ∧ s.flagsWord.getLsbD n = true ∧ s.events.mask.getLsbD n = false) ∧
    ∀ n, ((s.line n).func.code ≤ 4 → s.driven n = none) ∧
      ∀ active : Bool,
        (∀ p, (s.line n).func = .permitMirror p → active = s.permitHigh p) →
        ((s.line n).func = .alertMirror → active = s.alertLow) →
        (∀ p, (s.line n).func = .waitOut p → (active = true ↔ ∃ k, s.holdsWaiting p k = true)) →
        ((s.line n).func = .generalOut → active = (s.line n).out) →
        5 ≤ (s.line n).func.code →
        s.driven n = some (if active = decide ((s.line n).polarity = .activeHigh) then .high else .low)

/-! ### Invariants that every step keeps -/

/-- The bounded things stay in their ranges and the kept boxes stay boxes: settings, notice queues, counters, the map's
canonical form, claim boxes, the recorded swept boxes with their bin parts, and the data of the replies held, which fit
the fields of their layouts. -/
def Obligations.StepKeepsRanges : Prop :=
  (Config.noticeCapacity = 6 ∧ Config.linkErrorMax = 15 ∧ Config.accumulatorMax = 16777215) ∧
  ∀ s t : State, step s = .next t →
    (s.SettingsInRange → t.SettingsInRange) ∧ (s.QueuesBounded → t.QueuesBounded) ∧
    (s.CountersBounded → t.CountersBounded) ∧ (s.MapCanonical → t.MapCanonical) ∧ (s.BoxesInBin → t.BoxesInBin) ∧
    (s.SettingsInRange → s.PartsInBin → t.PartsInBin) ∧
    (s.SettingsInRange → s.TimersBounded → s.CountersBounded → s.BoxesInBin → s.PartsInBin → s.WaitListExact →
      s.RepliesFit → t.RepliesFit)

/-- In CONFIG the table, the wait list, the notice queues, the guard controllers and the report records, but for the
forced profiles, stay as the entry to CONFIG leaves them, and in RUN no GRANTED claim touches an active group, since an
activation revokes by the claim's box, as R158 says and R105 does not (log entry 19). -/
def Obligations.StepKeepsConfigQuiet : Prop :=
  ∀ s t : State, s.ConfigQuiet → step s = .next t → t.ConfigQuiet ∧ (s.GrantedClear → t.GrantedClear)

/-- Each guard controller record keeps the properties of its arm state, among them that a stop cause set is empty exactly
in RUN and DETACHED; no arm is in RUN while the e-stop is active; no running timer ever has more left than it was set
for; and a filter timer runs exactly while its input line's raw level differs from its filtered level. -/
def Obligations.StepKeepsGuardsAndTimers : Prop :=
  ∀ s t : State, step s = .next t →
    (s.GuardsFit → t.GuardsFit) ∧ (s.EstopHolds → t.EstopHolds) ∧
    (s.ConfigQuiet → s.TimersBounded → t.TimersBounded) ∧ (s.FiltersFit → t.FiltersFit)

/-- No arm's count ever exceeds its quota, a DETACHED arm holds no claim, and an arm that holds a claim or is not
DETACHED has a valid report record. -/
def Obligations.StepKeepsCounts : Prop :=
  ∀ s t : State, step s = .next t →
    (s.ConfigQuiet → s.WithinQuota → t.WithinQuota) ∧ (s.DetachedHoldsNone → t.DetachedHoldsNone) ∧
    (s.ConfigQuiet → s.RecordsValid → t.RecordsValid)

/-- R61: no step makes two live claims of different arms conflict under the clearance in force. The clearance changes in
CONFIG alone, where no claim exists. -/
def Obligations.StepKeepsLiveApart : Prop :=
  ∀ s t : State, s.ConfigQuiet → s.LiveApart → step s = .next t → t.LiveApart

/-- The wait list goes on holding each WAITING claim once and nothing else, URGENT before NORMAL, and at most one of each
arm. -/
def Obligations.StepKeepsWaitListExact : Prop :=
  ∀ s t : State, s.WaitListExact → step s = .next t → t.WaitListExact

/-- The blocker set of every WAITING claim is never empty, and is at every moment what screening the claim against the
table would give. -/
def Obligations.StepKeepsBlockersExact : Prop :=
  ∀ s t : State, s.ConfigQuiet → s.WaitListExact → s.BlockersExact → step s = .next t → t.BlockersExact

/-- While the settings are in range, where every step keeps them (StepKeepsRanges), the kept verdicts stay current, and an
arm in RUN has a last report within its cap whose bin part touches no active group. -/
def Obligations.StepKeepsVerdicts : Prop :=
  ∀ s t : State, s.ConfigQuiet → s.SettingsInRange → s.VerdictsKept → step s = .next t →
    t.VerdictsKept ∧ (s.RunArmsClear → t.RunArmsClear)

/-- The terms of a high permit (R143) outlast every step where a kept CONTAINED stands on a claim that is OCCUPIED or
RELEASING: the last report of an arm in RUN was not over its cap, and its bin part is empty, or touches no active group
and lies in one live claim of the arm, a claim that is OCCUPIED or RELEASING. A kept CONTAINED goes on standing on such a
claim, but for one case: after PURGE_CLAIM it may stand on a GRANTED claim, since R118 judges it against all remaining
live claims (log entry 9). The other premises are laws that statements of their own say every step keeps. -/
def Obligations.StepKeepsPermitTerms : Prop :=
  ∀ s t : State, s.ConfigQuiet → s.SettingsInRange → s.PartsInBin → s.VerdictsKept → s.RunArmsClear →
    s.PermitsHonest → s.ContainingClaimHeld → s.PlacesEntered → step s = .next t →
    t.PermitsHonest ∧ t.ContainingClaimHeld ∧
    ((∀ slot gen rest, s.pending ≠ .purgeClaim slot gen :: rest) → t.PlacesEntered) ∧
    ∀ p l b, t.mode = .run → (t.record p).last = some l → l.binPart = some b → l.verdict.place = .contained →
      t.EnteredContains p b ∨ ∃ k c left, t.body k = .granted c left ∧ c.owner = p ∧ b.containedIn c.box = true

end
end

