-- ==== Sys2Proof/Laws/State.lean ====
section
/-! SUPPORT. One lemma per field per update of State, true by rfl, the reads of records that were written, and the reads
that depend on a few fields only. -/

namespace Sys2Proof.Machine

/-! ### Arms and groups -/

@[simp] theorem PerArm.get_set_self {α : Type} (v : PerArm α) (p : Arm) (x : α) : (v.set p x).get p = x := by
  cases p <;> rfl

theorem PerArm.get_set {α : Type} (v : PerArm α) (p q : Arm) (x : α) :
    (v.set p x).get q = if q = p then x else v.get q := by
  cases p <;> cases q <;> rfl

@[simp] theorem PerArm.get_set_other {α : Type} (v : PerArm α) (p : Arm) (x : α) :
    (v.set p x).get p.other = v.get p.other := by
  cases p <;> rfl

@[simp] theorem PerArm.set_set {α : Type} (v : PerArm α) (p : Arm) (x y : α) : (v.set p x).set p y = v.set p y := by
  cases p <;> rfl

@[simp] theorem PerArm.set_get {α : Type} (v : PerArm α) (p : Arm) : v.set p (v.get p) = v := by
  cases p <;> rfl

theorem PerArm.ext_get {α : Type} {v w : PerArm α} (h : ∀ p, v.get p = w.get p) : v = w := by
  have ha := h .a
  have hb := h .b
  cases v; cases w; simp_all [PerArm.get]

theorem PerGroup.get_set {α : Type} (v : PerGroup α) (g h : Group) (x : α) :
    (v.set g x).get h = if h = g then x else v.get h := by
  cases g <;> cases h <;> rfl

@[simp] theorem other_ne (p : Arm) : p.other ≠ p := by cases p <;> decide

@[simp] theorem ne_other (p : Arm) : p ≠ p.other := by cases p <;> decide

@[simp] theorem other_other (p : Arm) : p.other.other = p := by cases p <;> rfl

theorem eq_or_eq_other (p q : Arm) : q = p ∨ q = p.other := by cases p <;> cases q <;> decide

theorem arm_eq_of_ne_other {p q : Arm} (h : q ≠ p.other) : q = p := by
  cases p <;> cases q <;> simp_all [Arm.other]

@[simp] theorem mem_allSlots (k : Fin 24) : k ∈ allSlots := List.mem_finRange k

@[simp] theorem mem_allLines (n : Fin 8) : n ∈ allLines := List.mem_finRange n

@[simp] theorem mem_allGroups (g : Group) : g ∈ allGroups := by cases g <;> decide

@[simp] theorem mem_allArms (p : Arm) : p ∈ allArms := by cases p <;> decide

theorem nodup_allSlots : allSlots.Nodup := List.nodup_finRange 24

/-! ### Fields after updates -/

@[simp] theorem State.setGuard_mode (s : State) (p : Arm) (g : Guard) : (s.setGuard p g).mode = s.mode := rfl
@[simp] theorem State.setGuard_cal (s : State) (p : Arm) (g : Guard) : (s.setGuard p g).cal = s.cal := rfl
@[simp] theorem State.setGuard_profiles (s : State) (p : Arm) (g : Guard) : (s.setGuard p g).profiles = s.profiles := rfl
@[simp] theorem State.setGuard_timing (s : State) (p : Arm) (g : Guard) : (s.setGuard p g).timing = s.timing := rfl
@[simp] theorem State.setGuard_records (s : State) (p : Arm) (g : Guard) : (s.setGuard p g).records = s.records := rfl
@[simp] theorem State.setGuard_guards (s : State) (p : Arm) (g : Guard) :
    (s.setGuard p g).guards = s.guards.set p g := rfl
@[simp] theorem State.setGuard_slots (s : State) (p : Arm) (g : Guard) : (s.setGuard p g).slots = s.slots := rfl
@[simp] theorem State.setGuard_waitList (s : State) (p : Arm) (g : Guard) : (s.setGuard p g).waitList = s.waitList := rfl
@[simp] theorem State.setGuard_links (s : State) (p : Arm) (g : Guard) : (s.setGuard p g).links = s.links := rfl
@[simp] theorem State.setGuard_cell (s : State) (p : Arm) (g : Guard) : (s.setGuard p g).cell = s.cell := rfl
@[simp] theorem State.setGuard_keepOut (s : State) (p : Arm) (g : Guard) : (s.setGuard p g).keepOut = s.keepOut := rfl
@[simp] theorem State.setGuard_lines (s : State) (p : Arm) (g : Guard) : (s.setGuard p g).lines = s.lines := rfl
@[simp] theorem State.setGuard_events (s : State) (p : Arm) (g : Guard) : (s.setGuard p g).events = s.events := rfl
@[simp] theorem State.setGuard_resetnLow (s : State) (p : Arm) (g : Guard) : (s.setGuard p g).resetnLow = s.resetnLow := rfl
@[simp] theorem State.setGuard_supplyLow (s : State) (p : Arm) (g : Guard) : (s.setGuard p g).supplyLow = s.supplyLow := rfl
@[simp] theorem State.setGuard_pending (s : State) (p : Arm) (g : Guard) : (s.setGuard p g).pending = s.pending := rfl

@[simp] theorem State.setRecord_mode (s : State) (p : Arm) (r : ReportRecord) : (s.setRecord p r).mode = s.mode := rfl
@[simp] theorem State.setRecord_cal (s : State) (p : Arm) (r : ReportRecord) : (s.setRecord p r).cal = s.cal := rfl
@[simp] theorem State.setRecord_profiles (s : State) (p : Arm) (r : ReportRecord) : (s.setRecord p r).profiles = s.profiles := rfl
@[simp] theorem State.setRecord_timing (s : State) (p : Arm) (r : ReportRecord) : (s.setRecord p r).timing = s.timing := rfl
@[simp] theorem State.setRecord_records (s : State) (p : Arm) (r : ReportRecord) :
    (s.setRecord p r).records = s.records.set p r := rfl
@[simp] theorem State.setRecord_guards (s : State) (p : Arm) (r : ReportRecord) : (s.setRecord p r).guards = s.guards := rfl
@[simp] theorem State.setRecord_slots (s : State) (p : Arm) (r : ReportRecord) : (s.setRecord p r).slots = s.slots := rfl
@[simp] theorem State.setRecord_waitList (s : State) (p : Arm) (r : ReportRecord) : (s.setRecord p r).waitList = s.waitList := rfl
@[simp] theorem State.setRecord_links (s : State) (p : Arm) (r : ReportRecord) : (s.setRecord p r).links = s.links := rfl
@[simp] theorem State.setRecord_cell (s : State) (p : Arm) (r : ReportRecord) : (s.setRecord p r).cell = s.cell := rfl
@[simp] theorem State.setRecord_keepOut (s : State) (p : Arm) (r : ReportRecord) : (s.setRecord p r).keepOut = s.keepOut := rfl
@[simp] theorem State.setRecord_lines (s : State) (p : Arm) (r : ReportRecord) : (s.setRecord p r).lines = s.lines := rfl
@[simp] theorem State.setRecord_events (s : State) (p : Arm) (r : ReportRecord) : (s.setRecord p r).events = s.events := rfl
@[simp] theorem State.setRecord_resetnLow (s : State) (p : Arm) (r : ReportRecord) : (s.setRecord p r).resetnLow = s.resetnLow := rfl
@[simp] theorem State.setRecord_supplyLow (s : State) (p : Arm) (r : ReportRecord) : (s.setRecord p r).supplyLow = s.supplyLow := rfl
@[simp] theorem State.setRecord_pending (s : State) (p : Arm) (r : ReportRecord) : (s.setRecord p r).pending = s.pending := rfl

@[simp] theorem State.setLink_mode (s : State) (p : Arm) (l : ArmLink) : (s.setLink p l).mode = s.mode := rfl
@[simp] theorem State.setLink_cal (s : State) (p : Arm) (l : ArmLink) : (s.setLink p l).cal = s.cal := rfl
@[simp] theorem State.setLink_profiles (s : State) (p : Arm) (l : ArmLink) : (s.setLink p l).profiles = s.profiles := rfl
@[simp] theorem State.setLink_timing (s : State) (p : Arm) (l : ArmLink) : (s.setLink p l).timing = s.timing := rfl
@[simp] theorem State.setLink_records (s : State) (p : Arm) (l : ArmLink) : (s.setLink p l).records = s.records := rfl
@[simp] theorem State.setLink_guards (s : State) (p : Arm) (l : ArmLink) : (s.setLink p l).guards = s.guards := rfl
@[simp] theorem State.setLink_slots (s : State) (p : Arm) (l : ArmLink) : (s.setLink p l).slots = s.slots := rfl
@[simp] theorem State.setLink_waitList (s : State) (p : Arm) (l : ArmLink) : (s.setLink p l).waitList = s.waitList := rfl
@[simp] theorem State.setLink_links (s : State) (p : Arm) (l : ArmLink) :
    (s.setLink p l).links = s.links.set p l := rfl
@[simp] theorem State.setLink_cell (s : State) (p : Arm) (l : ArmLink) : (s.setLink p l).cell = s.cell := rfl
@[simp] theorem State.setLink_keepOut (s : State) (p : Arm) (l : ArmLink) : (s.setLink p l).keepOut = s.keepOut := rfl
@[simp] theorem State.setLink_lines (s : State) (p : Arm) (l : ArmLink) : (s.setLink p l).lines = s.lines := rfl
@[simp] theorem State.setLink_events (s : State) (p : Arm) (l : ArmLink) : (s.setLink p l).events = s.events := rfl
@[simp] theorem State.setLink_resetnLow (s : State) (p : Arm) (l : ArmLink) : (s.setLink p l).resetnLow = s.resetnLow := rfl
@[simp] theorem State.setLink_supplyLow (s : State) (p : Arm) (l : ArmLink) : (s.setLink p l).supplyLow = s.supplyLow := rfl
@[simp] theorem State.setLink_pending (s : State) (p : Arm) (l : ArmLink) : (s.setLink p l).pending = s.pending := rfl

@[simp] theorem State.setSlot_mode (s : State) (k : Fin 24) (x : Slot) : (s.setSlot k x).mode = s.mode := rfl
@[simp] theorem State.setSlot_cal (s : State) (k : Fin 24) (x : Slot) : (s.setSlot k x).cal = s.cal := rfl
@[simp] theorem State.setSlot_profiles (s : State) (k : Fin 24) (x : Slot) : (s.setSlot k x).profiles = s.profiles := rfl
@[simp] theorem State.setSlot_timing (s : State) (k : Fin 24) (x : Slot) : (s.setSlot k x).timing = s.timing := rfl
@[simp] theorem State.setSlot_records (s : State) (k : Fin 24) (x : Slot) : (s.setSlot k x).records = s.records := rfl
@[simp] theorem State.setSlot_guards (s : State) (k : Fin 24) (x : Slot) : (s.setSlot k x).guards = s.guards := rfl
@[simp] theorem State.setSlot_slots (s : State) (k : Fin 24) (x : Slot) :
    (s.setSlot k x).slots = s.slots.set k x := rfl
@[simp] theorem State.setSlot_waitList (s : State) (k : Fin 24) (x : Slot) : (s.setSlot k x).waitList = s.waitList := rfl
@[simp] theorem State.setSlot_links (s : State) (k : Fin 24) (x : Slot) : (s.setSlot k x).links = s.links := rfl
@[simp] theorem State.setSlot_cell (s : State) (k : Fin 24) (x : Slot) : (s.setSlot k x).cell = s.cell := rfl
@[simp] theorem State.setSlot_keepOut (s : State) (k : Fin 24) (x : Slot) : (s.setSlot k x).keepOut = s.keepOut := rfl
@[simp] theorem State.setSlot_lines (s : State) (k : Fin 24) (x : Slot) : (s.setSlot k x).lines = s.lines := rfl
@[simp] theorem State.setSlot_events (s : State) (k : Fin 24) (x : Slot) : (s.setSlot k x).events = s.events := rfl
@[simp] theorem State.setSlot_resetnLow (s : State) (k : Fin 24) (x : Slot) : (s.setSlot k x).resetnLow = s.resetnLow := rfl
@[simp] theorem State.setSlot_supplyLow (s : State) (k : Fin 24) (x : Slot) : (s.setSlot k x).supplyLow = s.supplyLow := rfl
@[simp] theorem State.setSlot_pending (s : State) (k : Fin 24) (x : Slot) : (s.setSlot k x).pending = s.pending := rfl

@[simp] theorem State.setBody_mode (s : State) (k : Fin 24) (b : SlotBody) : (s.setBody k b).mode = s.mode := rfl
@[simp] theorem State.setBody_cal (s : State) (k : Fin 24) (b : SlotBody) : (s.setBody k b).cal = s.cal := rfl
@[simp] theorem State.setBody_profiles (s : State) (k : Fin 24) (b : SlotBody) : (s.setBody k b).profiles = s.profiles := rfl
@[simp] theorem State.setBody_timing (s : State) (k : Fin 24) (b : SlotBody) : (s.setBody k b).timing = s.timing := rfl
@[simp] theorem State.setBody_records (s : State) (k : Fin 24) (b : SlotBody) : (s.setBody k b).records = s.records := rfl
@[simp] theorem State.setBody_guards (s : State) (k : Fin 24) (b : SlotBody) : (s.setBody k b).guards = s.guards := rfl
@[simp] theorem State.setBody_slots (s : State) (k : Fin 24) (b : SlotBody) :
    (s.setBody k b).slots = s.slots.set k { s.slot k with body := b } := rfl
@[simp] theorem State.setBody_waitList (s : State) (k : Fin 24) (b : SlotBody) : (s.setBody k b).waitList = s.waitList := rfl
@[simp] theorem State.setBody_links (s : State) (k : Fin 24) (b : SlotBody) : (s.setBody k b).links = s.links := rfl
@[simp] theorem State.setBody_cell (s : State) (k : Fin 24) (b : SlotBody) : (s.setBody k b).cell = s.cell := rfl
@[simp] theorem State.setBody_keepOut (s : State) (k : Fin 24) (b : SlotBody) : (s.setBody k b).keepOut = s.keepOut := rfl
@[simp] theorem State.setBody_lines (s : State) (k : Fin 24) (b : SlotBody) : (s.setBody k b).lines = s.lines := rfl
@[simp] theorem State.setBody_events (s : State) (k : Fin 24) (b : SlotBody) : (s.setBody k b).events = s.events := rfl
@[simp] theorem State.setBody_resetnLow (s : State) (k : Fin 24) (b : SlotBody) : (s.setBody k b).resetnLow = s.resetnLow := rfl
@[simp] theorem State.setBody_supplyLow (s : State) (k : Fin 24) (b : SlotBody) : (s.setBody k b).supplyLow = s.supplyLow := rfl
@[simp] theorem State.setBody_pending (s : State) (k : Fin 24) (b : SlotBody) : (s.setBody k b).pending = s.pending := rfl

@[simp] theorem State.mapBodies_mode (s : State) (f : Fin 24 → SlotBody → SlotBody) : (s.mapBodies f).mode = s.mode := by simp only [State.mapBodies]
@[simp] theorem State.mapBodies_cal (s : State) (f : Fin 24 → SlotBody → SlotBody) : (s.mapBodies f).cal = s.cal := by simp only [State.mapBodies]
@[simp] theorem State.mapBodies_profiles (s : State) (f : Fin 24 → SlotBody → SlotBody) : (s.mapBodies f).profiles = s.profiles := by simp only [State.mapBodies]
@[simp] theorem State.mapBodies_timing (s : State) (f : Fin 24 → SlotBody → SlotBody) : (s.mapBodies f).timing = s.timing := by simp only [State.mapBodies]
@[simp] theorem State.mapBodies_records (s : State) (f : Fin 24 → SlotBody → SlotBody) : (s.mapBodies f).records = s.records := by simp only [State.mapBodies]
@[simp] theorem State.mapBodies_guards (s : State) (f : Fin 24 → SlotBody → SlotBody) : (s.mapBodies f).guards = s.guards := by simp only [State.mapBodies]
@[simp] theorem State.mapBodies_slots (s : State) (f : Fin 24 → SlotBody → SlotBody) :
    (s.mapBodies f).slots = Vector.ofFn fun k => { s.slot k with body := f k (s.body k) } := by simp only [State.mapBodies]
@[simp] theorem State.mapBodies_waitList (s : State) (f : Fin 24 → SlotBody → SlotBody) : (s.mapBodies f).waitList = s.waitList := by simp only [State.mapBodies]
@[simp] theorem State.mapBodies_links (s : State) (f : Fin 24 → SlotBody → SlotBody) : (s.mapBodies f).links = s.links := by simp only [State.mapBodies]
@[simp] theorem State.mapBodies_cell (s : State) (f : Fin 24 → SlotBody → SlotBody) : (s.mapBodies f).cell = s.cell := by simp only [State.mapBodies]
@[simp] theorem State.mapBodies_keepOut (s : State) (f : Fin 24 → SlotBody → SlotBody) : (s.mapBodies f).keepOut = s.keepOut := by simp only [State.mapBodies]
@[simp] theorem State.mapBodies_lines (s : State) (f : Fin 24 → SlotBody → SlotBody) : (s.mapBodies f).lines = s.lines := by simp only [State.mapBodies]
@[simp] theorem State.mapBodies_events (s : State) (f : Fin 24 → SlotBody → SlotBody) : (s.mapBodies f).events = s.events := by simp only [State.mapBodies]
@[simp] theorem State.mapBodies_resetnLow (s : State) (f : Fin 24 → SlotBody → SlotBody) : (s.mapBodies f).resetnLow = s.resetnLow := by simp only [State.mapBodies]
@[simp] theorem State.mapBodies_supplyLow (s : State) (f : Fin 24 → SlotBody → SlotBody) : (s.mapBodies f).supplyLow = s.supplyLow := by simp only [State.mapBodies]
@[simp] theorem State.mapBodies_pending (s : State) (f : Fin 24 → SlotBody → SlotBody) : (s.mapBodies f).pending = s.pending := by simp only [State.mapBodies]

@[simp] theorem State.setLine_mode (s : State) (n : Fin 8) (l : Line) : (s.setLine n l).mode = s.mode := rfl
@[simp] theorem State.setLine_cal (s : State) (n : Fin 8) (l : Line) : (s.setLine n l).cal = s.cal := rfl
@[simp] theorem State.setLine_profiles (s : State) (n : Fin 8) (l : Line) : (s.setLine n l).profiles = s.profiles := rfl
@[simp] theorem State.setLine_timing (s : State) (n : Fin 8) (l : Line) : (s.setLine n l).timing = s.timing := rfl
@[simp] theorem State.setLine_records (s : State) (n : Fin 8) (l : Line) : (s.setLine n l).records = s.records := rfl
@[simp] theorem State.setLine_guards (s : State) (n : Fin 8) (l : Line) : (s.setLine n l).guards = s.guards := rfl
@[simp] theorem State.setLine_slots (s : State) (n : Fin 8) (l : Line) : (s.setLine n l).slots = s.slots := rfl
@[simp] theorem State.setLine_waitList (s : State) (n : Fin 8) (l : Line) : (s.setLine n l).waitList = s.waitList := rfl
@[simp] theorem State.setLine_links (s : State) (n : Fin 8) (l : Line) : (s.setLine n l).links = s.links := rfl
@[simp] theorem State.setLine_cell (s : State) (n : Fin 8) (l : Line) : (s.setLine n l).cell = s.cell := rfl
@[simp] theorem State.setLine_keepOut (s : State) (n : Fin 8) (l : Line) : (s.setLine n l).keepOut = s.keepOut := rfl
@[simp] theorem State.setLine_lines (s : State) (n : Fin 8) (l : Line) :
    (s.setLine n l).lines = s.lines.set n l := rfl
@[simp] theorem State.setLine_events (s : State) (n : Fin 8) (l : Line) : (s.setLine n l).events = s.events := rfl
@[simp] theorem State.setLine_resetnLow (s : State) (n : Fin 8) (l : Line) : (s.setLine n l).resetnLow = s.resetnLow := rfl
@[simp] theorem State.setLine_supplyLow (s : State) (n : Fin 8) (l : Line) : (s.setLine n l).supplyLow = s.supplyLow := rfl
@[simp] theorem State.setLine_pending (s : State) (n : Fin 8) (l : Line) : (s.setLine n l).pending = s.pending := rfl

@[simp] theorem State.writeOutputs_mode (s : State) (f : Fin 8 → Bool → Bool) : (s.writeOutputs f).mode = s.mode := rfl
@[simp] theorem State.writeOutputs_cal (s : State) (f : Fin 8 → Bool → Bool) : (s.writeOutputs f).cal = s.cal := rfl
@[simp] theorem State.writeOutputs_profiles (s : State) (f : Fin 8 → Bool → Bool) : (s.writeOutputs f).profiles = s.profiles := rfl
@[simp] theorem State.writeOutputs_timing (s : State) (f : Fin 8 → Bool → Bool) : (s.writeOutputs f).timing = s.timing := rfl
@[simp] theorem State.writeOutputs_records (s : State) (f : Fin 8 → Bool → Bool) : (s.writeOutputs f).records = s.records := rfl
@[simp] theorem State.writeOutputs_guards (s : State) (f : Fin 8 → Bool → Bool) : (s.writeOutputs f).guards = s.guards := rfl
@[simp] theorem State.writeOutputs_slots (s : State) (f : Fin 8 → Bool → Bool) : (s.writeOutputs f).slots = s.slots := rfl
@[simp] theorem State.writeOutputs_waitList (s : State) (f : Fin 8 → Bool → Bool) : (s.writeOutputs f).waitList = s.waitList := rfl
@[simp] theorem State.writeOutputs_links (s : State) (f : Fin 8 → Bool → Bool) : (s.writeOutputs f).links = s.links := rfl
@[simp] theorem State.writeOutputs_cell (s : State) (f : Fin 8 → Bool → Bool) : (s.writeOutputs f).cell = s.cell := rfl
@[simp] theorem State.writeOutputs_keepOut (s : State) (f : Fin 8 → Bool → Bool) : (s.writeOutputs f).keepOut = s.keepOut := rfl
@[simp] theorem State.writeOutputs_lines (s : State) (f : Fin 8 → Bool → Bool) :
    (s.writeOutputs f).lines = Vector.ofFn fun n => { s.line n with out := f n (s.line n).out } := rfl
@[simp] theorem State.writeOutputs_events (s : State) (f : Fin 8 → Bool → Bool) : (s.writeOutputs f).events = s.events := rfl
@[simp] theorem State.writeOutputs_resetnLow (s : State) (f : Fin 8 → Bool → Bool) : (s.writeOutputs f).resetnLow = s.resetnLow := rfl
@[simp] theorem State.writeOutputs_supplyLow (s : State) (f : Fin 8 → Bool → Bool) : (s.writeOutputs f).supplyLow = s.supplyLow := rfl
@[simp] theorem State.writeOutputs_pending (s : State) (f : Fin 8 → Bool → Bool) : (s.writeOutputs f).pending = s.pending := rfl

@[simp] theorem State.updSticky_mode (s : State) (f : StickyFlags → StickyFlags) : (s.updSticky f).mode = s.mode := rfl
@[simp] theorem State.updSticky_cal (s : State) (f : StickyFlags → StickyFlags) : (s.updSticky f).cal = s.cal := rfl
@[simp] theorem State.updSticky_profiles (s : State) (f : StickyFlags → StickyFlags) : (s.updSticky f).profiles = s.profiles := rfl
@[simp] theorem State.updSticky_timing (s : State) (f : StickyFlags → StickyFlags) : (s.updSticky f).timing = s.timing := rfl
@[simp] theorem State.updSticky_records (s : State) (f : StickyFlags → StickyFlags) : (s.updSticky f).records = s.records := rfl
@[simp] theorem State.updSticky_guards (s : State) (f : StickyFlags → StickyFlags) : (s.updSticky f).guards = s.guards := rfl
@[simp] theorem State.updSticky_slots (s : State) (f : StickyFlags → StickyFlags) : (s.updSticky f).slots = s.slots := rfl
@[simp] theorem State.updSticky_waitList (s : State) (f : StickyFlags → StickyFlags) : (s.updSticky f).waitList = s.waitList := rfl
@[simp] theorem State.updSticky_links (s : State) (f : StickyFlags → StickyFlags) : (s.updSticky f).links = s.links := rfl
@[simp] theorem State.updSticky_cell (s : State) (f : StickyFlags → StickyFlags) : (s.updSticky f).cell = s.cell := rfl
@[simp] theorem State.updSticky_keepOut (s : State) (f : StickyFlags → StickyFlags) : (s.updSticky f).keepOut = s.keepOut := rfl
@[simp] theorem State.updSticky_lines (s : State) (f : StickyFlags → StickyFlags) : (s.updSticky f).lines = s.lines := rfl
@[simp] theorem State.updSticky_events (s : State) (f : StickyFlags → StickyFlags) :
    (s.updSticky f).events = { s.events with sticky := f s.events.sticky } := rfl
@[simp] theorem State.updSticky_resetnLow (s : State) (f : StickyFlags → StickyFlags) : (s.updSticky f).resetnLow = s.resetnLow := rfl
@[simp] theorem State.updSticky_supplyLow (s : State) (f : StickyFlags → StickyFlags) : (s.updSticky f).supplyLow = s.supplyLow := rfl
@[simp] theorem State.updSticky_pending (s : State) (f : StickyFlags → StickyFlags) : (s.updSticky f).pending = s.pending := rfl

@[simp] theorem State.clearFresh_mode (s : State) (p : Arm) : (s.clearFresh p).mode = s.mode := rfl
@[simp] theorem State.clearFresh_cal (s : State) (p : Arm) : (s.clearFresh p).cal = s.cal := rfl
@[simp] theorem State.clearFresh_profiles (s : State) (p : Arm) : (s.clearFresh p).profiles = s.profiles := rfl
@[simp] theorem State.clearFresh_timing (s : State) (p : Arm) : (s.clearFresh p).timing = s.timing := rfl
@[simp] theorem State.clearFresh_records (s : State) (p : Arm) :
    (s.clearFresh p).records = s.records.set p { s.record p with fresh := false } := rfl
@[simp] theorem State.clearFresh_guards (s : State) (p : Arm) : (s.clearFresh p).guards = s.guards := rfl
@[simp] theorem State.clearFresh_slots (s : State) (p : Arm) : (s.clearFresh p).slots = s.slots := rfl
@[simp] theorem State.clearFresh_waitList (s : State) (p : Arm) : (s.clearFresh p).waitList = s.waitList := rfl
@[simp] theorem State.clearFresh_links (s : State) (p : Arm) : (s.clearFresh p).links = s.links := rfl
@[simp] theorem State.clearFresh_cell (s : State) (p : Arm) : (s.clearFresh p).cell = s.cell := rfl
@[simp] theorem State.clearFresh_keepOut (s : State) (p : Arm) : (s.clearFresh p).keepOut = s.keepOut := rfl
@[simp] theorem State.clearFresh_lines (s : State) (p : Arm) : (s.clearFresh p).lines = s.lines := rfl
@[simp] theorem State.clearFresh_events (s : State) (p : Arm) : (s.clearFresh p).events = s.events := rfl
@[simp] theorem State.clearFresh_resetnLow (s : State) (p : Arm) : (s.clearFresh p).resetnLow = s.resetnLow := rfl
@[simp] theorem State.clearFresh_supplyLow (s : State) (p : Arm) : (s.clearFresh p).supplyLow = s.supplyLow := rfl
@[simp] theorem State.clearFresh_pending (s : State) (p : Arm) : (s.clearFresh p).pending = s.pending := rfl

@[simp] theorem State.startReportTimer_mode (s : State) (p : Arm) : (s.startReportTimer p).mode = s.mode := rfl
@[simp] theorem State.startReportTimer_cal (s : State) (p : Arm) : (s.startReportTimer p).cal = s.cal := rfl
@[simp] theorem State.startReportTimer_profiles (s : State) (p : Arm) : (s.startReportTimer p).profiles = s.profiles := rfl
@[simp] theorem State.startReportTimer_timing (s : State) (p : Arm) : (s.startReportTimer p).timing = s.timing := rfl
@[simp] theorem State.startReportTimer_records (s : State) (p : Arm) : (s.startReportTimer p).records = s.records := rfl
@[simp] theorem State.startReportTimer_guards (s : State) (p : Arm) :
    (s.startReportTimer p).guards = s.guards.set p { s.guard p with reportTimer := some s.reportMs } := rfl
@[simp] theorem State.startReportTimer_slots (s : State) (p : Arm) : (s.startReportTimer p).slots = s.slots := rfl
@[simp] theorem State.startReportTimer_waitList (s : State) (p : Arm) : (s.startReportTimer p).waitList = s.waitList := rfl
@[simp] theorem State.startReportTimer_links (s : State) (p : Arm) : (s.startReportTimer p).links = s.links := rfl
@[simp] theorem State.startReportTimer_cell (s : State) (p : Arm) : (s.startReportTimer p).cell = s.cell := rfl
@[simp] theorem State.startReportTimer_keepOut (s : State) (p : Arm) : (s.startReportTimer p).keepOut = s.keepOut := rfl
@[simp] theorem State.startReportTimer_lines (s : State) (p : Arm) : (s.startReportTimer p).lines = s.lines := rfl
@[simp] theorem State.startReportTimer_events (s : State) (p : Arm) : (s.startReportTimer p).events = s.events := rfl
@[simp] theorem State.startReportTimer_resetnLow (s : State) (p : Arm) : (s.startReportTimer p).resetnLow = s.resetnLow := rfl
@[simp] theorem State.startReportTimer_supplyLow (s : State) (p : Arm) : (s.startReportTimer p).supplyLow = s.supplyLow := rfl
@[simp] theorem State.startReportTimer_pending (s : State) (p : Arm) : (s.startReportTimer p).pending = s.pending := rfl

@[simp] theorem State.completeResume_mode (s : State) (p : Arm) : (s.completeResume p).mode = s.mode := rfl
@[simp] theorem State.completeResume_cal (s : State) (p : Arm) : (s.completeResume p).cal = s.cal := rfl
@[simp] theorem State.completeResume_profiles (s : State) (p : Arm) : (s.completeResume p).profiles = s.profiles := rfl
@[simp] theorem State.completeResume_timing (s : State) (p : Arm) : (s.completeResume p).timing = s.timing := rfl
@[simp] theorem State.completeResume_records (s : State) (p : Arm) : (s.completeResume p).records = s.records := rfl
@[simp] theorem State.completeResume_guards (s : State) (p : Arm) :
    (s.completeResume p).guards = s.guards.set p { s.guard p with state := .run, causes := CauseSet.empty, resumeRequested := false, stopAcknowledged := false } := rfl
@[simp] theorem State.completeResume_slots (s : State) (p : Arm) : (s.completeResume p).slots = s.slots := rfl
@[simp] theorem State.completeResume_waitList (s : State) (p : Arm) : (s.completeResume p).waitList = s.waitList := rfl
@[simp] theorem State.completeResume_links (s : State) (p : Arm) : (s.completeResume p).links = s.links := rfl
@[simp] theorem State.completeResume_cell (s : State) (p : Arm) : (s.completeResume p).cell = s.cell := rfl
@[simp] theorem State.completeResume_keepOut (s : State) (p : Arm) : (s.completeResume p).keepOut = s.keepOut := rfl
@[simp] theorem State.completeResume_lines (s : State) (p : Arm) : (s.completeResume p).lines = s.lines := rfl
@[simp] theorem State.completeResume_events (s : State) (p : Arm) : (s.completeResume p).events = s.events := rfl
@[simp] theorem State.completeResume_resetnLow (s : State) (p : Arm) : (s.completeResume p).resetnLow = s.resetnLow := rfl
@[simp] theorem State.completeResume_supplyLow (s : State) (p : Arm) : (s.completeResume p).supplyLow = s.supplyLow := rfl
@[simp] theorem State.completeResume_pending (s : State) (p : Arm) : (s.completeResume p).pending = s.pending := rfl

@[simp] theorem State.stopEvent_mode (s : State) (p : Arm) (c : StopCause) : (s.stopEvent p c).mode = s.mode := rfl
@[simp] theorem State.stopEvent_cal (s : State) (p : Arm) (c : StopCause) : (s.stopEvent p c).cal = s.cal := rfl
@[simp] theorem State.stopEvent_profiles (s : State) (p : Arm) (c : StopCause) : (s.stopEvent p c).profiles = s.profiles := rfl
@[simp] theorem State.stopEvent_timing (s : State) (p : Arm) (c : StopCause) : (s.stopEvent p c).timing = s.timing := rfl
@[simp] theorem State.stopEvent_records (s : State) (p : Arm) (c : StopCause) : (s.stopEvent p c).records = s.records := rfl
@[simp] theorem State.stopEvent_guards (s : State) (p : Arm) (c : StopCause) :
    (s.stopEvent p c).guards = s.guards.set p { s.guard p with causes := (s.guard p).causes.add c, resumeRequested := false, stopAcknowledged := false } := rfl
@[simp] theorem State.stopEvent_slots (s : State) (p : Arm) (c : StopCause) : (s.stopEvent p c).slots = s.slots := rfl
@[simp] theorem State.stopEvent_waitList (s : State) (p : Arm) (c : StopCause) : (s.stopEvent p c).waitList = s.waitList := rfl
@[simp] theorem State.stopEvent_links (s : State) (p : Arm) (c : StopCause) : (s.stopEvent p c).links = s.links := rfl
@[simp] theorem State.stopEvent_cell (s : State) (p : Arm) (c : StopCause) : (s.stopEvent p c).cell = s.cell := rfl
@[simp] theorem State.stopEvent_keepOut (s : State) (p : Arm) (c : StopCause) : (s.stopEvent p c).keepOut = s.keepOut := rfl
@[simp] theorem State.stopEvent_lines (s : State) (p : Arm) (c : StopCause) : (s.stopEvent p c).lines = s.lines := rfl
@[simp] theorem State.stopEvent_events (s : State) (p : Arm) (c : StopCause) : (s.stopEvent p c).events = s.events := rfl
@[simp] theorem State.stopEvent_resetnLow (s : State) (p : Arm) (c : StopCause) : (s.stopEvent p c).resetnLow = s.resetnLow := rfl
@[simp] theorem State.stopEvent_supplyLow (s : State) (p : Arm) (c : StopCause) : (s.stopEvent p c).supplyLow = s.supplyLow := rfl
@[simp] theorem State.stopEvent_pending (s : State) (p : Arm) (c : StopCause) : (s.stopEvent p c).pending = s.pending := rfl

@[simp] theorem State.replyArm_mode (s : State) (p : Arm) (kind : Byte) (r : Result) (d : ArmData) : (s.replyArm p kind r d).mode = s.mode := rfl
@[simp] theorem State.replyArm_cal (s : State) (p : Arm) (kind : Byte) (r : Result) (d : ArmData) : (s.replyArm p kind r d).cal = s.cal := rfl
@[simp] theorem State.replyArm_profiles (s : State) (p : Arm) (kind : Byte) (r : Result) (d : ArmData) : (s.replyArm p kind r d).profiles = s.profiles := rfl
@[simp] theorem State.replyArm_timing (s : State) (p : Arm) (kind : Byte) (r : Result) (d : ArmData) : (s.replyArm p kind r d).timing = s.timing := rfl
@[simp] theorem State.replyArm_records (s : State) (p : Arm) (kind : Byte) (r : Result) (d : ArmData) : (s.replyArm p kind r d).records = s.records := rfl
@[simp] theorem State.replyArm_guards (s : State) (p : Arm) (kind : Byte) (r : Result) (d : ArmData) : (s.replyArm p kind r d).guards = s.guards := rfl
@[simp] theorem State.replyArm_slots (s : State) (p : Arm) (kind : Byte) (r : Result) (d : ArmData) : (s.replyArm p kind r d).slots = s.slots := rfl
@[simp] theorem State.replyArm_waitList (s : State) (p : Arm) (kind : Byte) (r : Result) (d : ArmData) : (s.replyArm p kind r d).waitList = s.waitList := rfl
@[simp] theorem State.replyArm_cell (s : State) (p : Arm) (kind : Byte) (r : Result) (d : ArmData) : (s.replyArm p kind r d).cell = s.cell := rfl
@[simp] theorem State.replyArm_keepOut (s : State) (p : Arm) (kind : Byte) (r : Result) (d : ArmData) : (s.replyArm p kind r d).keepOut = s.keepOut := rfl
@[simp] theorem State.replyArm_lines (s : State) (p : Arm) (kind : Byte) (r : Result) (d : ArmData) : (s.replyArm p kind r d).lines = s.lines := rfl
@[simp] theorem State.replyArm_events (s : State) (p : Arm) (kind : Byte) (r : Result) (d : ArmData) : (s.replyArm p kind r d).events = s.events := rfl
@[simp] theorem State.replyArm_resetnLow (s : State) (p : Arm) (kind : Byte) (r : Result) (d : ArmData) : (s.replyArm p kind r d).resetnLow = s.resetnLow := rfl
@[simp] theorem State.replyArm_supplyLow (s : State) (p : Arm) (kind : Byte) (r : Result) (d : ArmData) : (s.replyArm p kind r d).supplyLow = s.supplyLow := rfl
@[simp] theorem State.replyArm_pending (s : State) (p : Arm) (kind : Byte) (r : Result) (d : ArmData) : (s.replyArm p kind r d).pending = s.pending := rfl

@[simp] theorem State.replyCell_mode (s : State) (kind : Byte) (r : Result) (c : Bool) (d : CellData) : (s.replyCell kind r c d).mode = s.mode := rfl
@[simp] theorem State.replyCell_cal (s : State) (kind : Byte) (r : Result) (c : Bool) (d : CellData) : (s.replyCell kind r c d).cal = s.cal := rfl
@[simp] theorem State.replyCell_profiles (s : State) (kind : Byte) (r : Result) (c : Bool) (d : CellData) : (s.replyCell kind r c d).profiles = s.profiles := rfl
@[simp] theorem State.replyCell_timing (s : State) (kind : Byte) (r : Result) (c : Bool) (d : CellData) : (s.replyCell kind r c d).timing = s.timing := rfl
@[simp] theorem State.replyCell_records (s : State) (kind : Byte) (r : Result) (c : Bool) (d : CellData) : (s.replyCell kind r c d).records = s.records := rfl
@[simp] theorem State.replyCell_guards (s : State) (kind : Byte) (r : Result) (c : Bool) (d : CellData) : (s.replyCell kind r c d).guards = s.guards := rfl
@[simp] theorem State.replyCell_slots (s : State) (kind : Byte) (r : Result) (c : Bool) (d : CellData) : (s.replyCell kind r c d).slots = s.slots := rfl
@[simp] theorem State.replyCell_waitList (s : State) (kind : Byte) (r : Result) (c : Bool) (d : CellData) : (s.replyCell kind r c d).waitList = s.waitList := rfl
@[simp] theorem State.replyCell_links (s : State) (kind : Byte) (r : Result) (c : Bool) (d : CellData) : (s.replyCell kind r c d).links = s.links := rfl
@[simp] theorem State.replyCell_keepOut (s : State) (kind : Byte) (r : Result) (c : Bool) (d : CellData) : (s.replyCell kind r c d).keepOut = s.keepOut := rfl
@[simp] theorem State.replyCell_lines (s : State) (kind : Byte) (r : Result) (c : Bool) (d : CellData) : (s.replyCell kind r c d).lines = s.lines := rfl
@[simp] theorem State.replyCell_events (s : State) (kind : Byte) (r : Result) (c : Bool) (d : CellData) : (s.replyCell kind r c d).events = s.events := rfl
@[simp] theorem State.replyCell_resetnLow (s : State) (kind : Byte) (r : Result) (c : Bool) (d : CellData) : (s.replyCell kind r c d).resetnLow = s.resetnLow := rfl
@[simp] theorem State.replyCell_supplyLow (s : State) (kind : Byte) (r : Result) (c : Bool) (d : CellData) : (s.replyCell kind r c d).supplyLow = s.supplyLow := rfl
@[simp] theorem State.replyCell_pending (s : State) (kind : Byte) (r : Result) (c : Bool) (d : CellData) : (s.replyCell kind r c d).pending = s.pending := rfl

@[simp] theorem State.flagStop_mode (s : State) (p : Arm) : (s.flagStop p).mode = s.mode := rfl
@[simp] theorem State.flagStop_cal (s : State) (p : Arm) : (s.flagStop p).cal = s.cal := rfl
@[simp] theorem State.flagStop_profiles (s : State) (p : Arm) : (s.flagStop p).profiles = s.profiles := rfl
@[simp] theorem State.flagStop_timing (s : State) (p : Arm) : (s.flagStop p).timing = s.timing := rfl
@[simp] theorem State.flagStop_records (s : State) (p : Arm) : (s.flagStop p).records = s.records := rfl
@[simp] theorem State.flagStop_guards (s : State) (p : Arm) : (s.flagStop p).guards = s.guards := rfl
@[simp] theorem State.flagStop_slots (s : State) (p : Arm) : (s.flagStop p).slots = s.slots := rfl
@[simp] theorem State.flagStop_waitList (s : State) (p : Arm) : (s.flagStop p).waitList = s.waitList := rfl
@[simp] theorem State.flagStop_links (s : State) (p : Arm) : (s.flagStop p).links = s.links := rfl
@[simp] theorem State.flagStop_cell (s : State) (p : Arm) : (s.flagStop p).cell = s.cell := rfl
@[simp] theorem State.flagStop_keepOut (s : State) (p : Arm) : (s.flagStop p).keepOut = s.keepOut := rfl
@[simp] theorem State.flagStop_lines (s : State) (p : Arm) : (s.flagStop p).lines = s.lines := rfl
@[simp] theorem State.flagStop_resetnLow (s : State) (p : Arm) : (s.flagStop p).resetnLow = s.resetnLow := rfl
@[simp] theorem State.flagStop_supplyLow (s : State) (p : Arm) : (s.flagStop p).supplyLow = s.supplyLow := rfl
@[simp] theorem State.flagStop_pending (s : State) (p : Arm) : (s.flagStop p).pending = s.pending := rfl
@[simp] theorem State.flagStop_mask (s : State) (p : Arm) : (s.flagStop p).events.mask = s.events.mask := rfl
@[simp] theorem State.flagStop_waitMs (s : State) (p : Arm) : (s.flagStop p).events.waitMs = s.events.waitMs := rfl
@[simp] theorem State.flagStop_haltMs (s : State) (p : Arm) : (s.flagStop p).events.haltMs = s.events.haltMs := rfl

@[simp] theorem State.flagLost_mode (s : State) (p : Arm) : (s.flagLost p).mode = s.mode := rfl
@[simp] theorem State.flagLost_cal (s : State) (p : Arm) : (s.flagLost p).cal = s.cal := rfl
@[simp] theorem State.flagLost_profiles (s : State) (p : Arm) : (s.flagLost p).profiles = s.profiles := rfl
@[simp] theorem State.flagLost_timing (s : State) (p : Arm) : (s.flagLost p).timing = s.timing := rfl
@[simp] theorem State.flagLost_records (s : State) (p : Arm) : (s.flagLost p).records = s.records := rfl
@[simp] theorem State.flagLost_guards (s : State) (p : Arm) : (s.flagLost p).guards = s.guards := rfl
@[simp] theorem State.flagLost_slots (s : State) (p : Arm) : (s.flagLost p).slots = s.slots := rfl
@[simp] theorem State.flagLost_waitList (s : State) (p : Arm) : (s.flagLost p).waitList = s.waitList := rfl
@[simp] theorem State.flagLost_links (s : State) (p : Arm) : (s.flagLost p).links = s.links := rfl
@[simp] theorem State.flagLost_cell (s : State) (p : Arm) : (s.flagLost p).cell = s.cell := rfl
@[simp] theorem State.flagLost_keepOut (s : State) (p : Arm) : (s.flagLost p).keepOut = s.keepOut := rfl
@[simp] theorem State.flagLost_lines (s : State) (p : Arm) : (s.flagLost p).lines = s.lines := rfl
@[simp] theorem State.flagLost_resetnLow (s : State) (p : Arm) : (s.flagLost p).resetnLow = s.resetnLow := rfl
@[simp] theorem State.flagLost_supplyLow (s : State) (p : Arm) : (s.flagLost p).supplyLow = s.supplyLow := rfl
@[simp] theorem State.flagLost_pending (s : State) (p : Arm) : (s.flagLost p).pending = s.pending := rfl
@[simp] theorem State.flagLost_mask (s : State) (p : Arm) : (s.flagLost p).events.mask = s.events.mask := rfl
@[simp] theorem State.flagLost_waitMs (s : State) (p : Arm) : (s.flagLost p).events.waitMs = s.events.waitMs := rfl
@[simp] theorem State.flagLost_haltMs (s : State) (p : Arm) : (s.flagLost p).events.haltMs = s.events.haltMs := rfl

@[simp] theorem State.flagLapse_mode (s : State) : (s.flagLapse).mode = s.mode := rfl
@[simp] theorem State.flagLapse_cal (s : State) : (s.flagLapse).cal = s.cal := rfl
@[simp] theorem State.flagLapse_profiles (s : State) : (s.flagLapse).profiles = s.profiles := rfl
@[simp] theorem State.flagLapse_timing (s : State) : (s.flagLapse).timing = s.timing := rfl
@[simp] theorem State.flagLapse_records (s : State) : (s.flagLapse).records = s.records := rfl
@[simp] theorem State.flagLapse_guards (s : State) : (s.flagLapse).guards = s.guards := rfl
@[simp] theorem State.flagLapse_slots (s : State) : (s.flagLapse).slots = s.slots := rfl
@[simp] theorem State.flagLapse_waitList (s : State) : (s.flagLapse).waitList = s.waitList := rfl
@[simp] theorem State.flagLapse_links (s : State) : (s.flagLapse).links = s.links := rfl
@[simp] theorem State.flagLapse_cell (s : State) : (s.flagLapse).cell = s.cell := rfl
@[simp] theorem State.flagLapse_keepOut (s : State) : (s.flagLapse).keepOut = s.keepOut := rfl
@[simp] theorem State.flagLapse_lines (s : State) : (s.flagLapse).lines = s.lines := rfl
@[simp] theorem State.flagLapse_resetnLow (s : State) : (s.flagLapse).resetnLow = s.resetnLow := rfl
@[simp] theorem State.flagLapse_supplyLow (s : State) : (s.flagLapse).supplyLow = s.supplyLow := rfl
@[simp] theorem State.flagLapse_pending (s : State) : (s.flagLapse).pending = s.pending := rfl
@[simp] theorem State.flagLapse_mask (s : State)  : (s.flagLapse).events.mask = s.events.mask := rfl
@[simp] theorem State.flagLapse_waitMs (s : State)  : (s.flagLapse).events.waitMs = s.events.waitMs := rfl
@[simp] theorem State.flagLapse_haltMs (s : State)  : (s.flagLapse).events.haltMs = s.events.haltMs := rfl

@[simp] theorem State.flagWaitExpired_mode (s : State) : (s.flagWaitExpired).mode = s.mode := rfl
@[simp] theorem State.flagWaitExpired_cal (s : State) : (s.flagWaitExpired).cal = s.cal := rfl
@[simp] theorem State.flagWaitExpired_profiles (s : State) : (s.flagWaitExpired).profiles = s.profiles := rfl
@[simp] theorem State.flagWaitExpired_timing (s : State) : (s.flagWaitExpired).timing = s.timing := rfl
@[simp] theorem State.flagWaitExpired_records (s : State) : (s.flagWaitExpired).records = s.records := rfl
@[simp] theorem State.flagWaitExpired_guards (s : State) : (s.flagWaitExpired).guards = s.guards := rfl
@[simp] theorem State.flagWaitExpired_slots (s : State) : (s.flagWaitExpired).slots = s.slots := rfl
@[simp] theorem State.flagWaitExpired_waitList (s : State) : (s.flagWaitExpired).waitList = s.waitList := rfl
@[simp] theorem State.flagWaitExpired_links (s : State) : (s.flagWaitExpired).links = s.links := rfl
@[simp] theorem State.flagWaitExpired_cell (s : State) : (s.flagWaitExpired).cell = s.cell := rfl
@[simp] theorem State.flagWaitExpired_keepOut (s : State) : (s.flagWaitExpired).keepOut = s.keepOut := rfl
@[simp] theorem State.flagWaitExpired_lines (s : State) : (s.flagWaitExpired).lines = s.lines := rfl
@[simp] theorem State.flagWaitExpired_resetnLow (s : State) : (s.flagWaitExpired).resetnLow = s.resetnLow := rfl
@[simp] theorem State.flagWaitExpired_supplyLow (s : State) : (s.flagWaitExpired).supplyLow = s.supplyLow := rfl
@[simp] theorem State.flagWaitExpired_pending (s : State) : (s.flagWaitExpired).pending = s.pending := rfl
@[simp] theorem State.flagWaitExpired_mask (s : State)  : (s.flagWaitExpired).events.mask = s.events.mask := rfl
@[simp] theorem State.flagWaitExpired_waitMs (s : State)  : (s.flagWaitExpired).events.waitMs = s.events.waitMs := rfl
@[simp] theorem State.flagWaitExpired_haltMs (s : State)  : (s.flagWaitExpired).events.haltMs = s.events.haltMs := rfl

@[simp] theorem State.flagRevoked_mode (s : State) : (s.flagRevoked).mode = s.mode := rfl
@[simp] theorem State.flagRevoked_cal (s : State) : (s.flagRevoked).cal = s.cal := rfl
@[simp] theorem State.flagRevoked_profiles (s : State) : (s.flagRevoked).profiles = s.profiles := rfl
@[simp] theorem State.flagRevoked_timing (s : State) : (s.flagRevoked).timing = s.timing := rfl
@[simp] theorem State.flagRevoked_records (s : State) : (s.flagRevoked).records = s.records := rfl
@[simp] theorem State.flagRevoked_guards (s : State) : (s.flagRevoked).guards = s.guards := rfl
@[simp] theorem State.flagRevoked_slots (s : State) : (s.flagRevoked).slots = s.slots := rfl
@[simp] theorem State.flagRevoked_waitList (s : State) : (s.flagRevoked).waitList = s.waitList := rfl
@[simp] theorem State.flagRevoked_links (s : State) : (s.flagRevoked).links = s.links := rfl
@[simp] theorem State.flagRevoked_cell (s : State) : (s.flagRevoked).cell = s.cell := rfl
@[simp] theorem State.flagRevoked_keepOut (s : State) : (s.flagRevoked).keepOut = s.keepOut := rfl
@[simp] theorem State.flagRevoked_lines (s : State) : (s.flagRevoked).lines = s.lines := rfl
@[simp] theorem State.flagRevoked_resetnLow (s : State) : (s.flagRevoked).resetnLow = s.resetnLow := rfl
@[simp] theorem State.flagRevoked_supplyLow (s : State) : (s.flagRevoked).supplyLow = s.supplyLow := rfl
@[simp] theorem State.flagRevoked_pending (s : State) : (s.flagRevoked).pending = s.pending := rfl
@[simp] theorem State.flagRevoked_mask (s : State)  : (s.flagRevoked).events.mask = s.events.mask := rfl
@[simp] theorem State.flagRevoked_waitMs (s : State)  : (s.flagRevoked).events.waitMs = s.events.waitMs := rfl
@[simp] theorem State.flagRevoked_haltMs (s : State)  : (s.flagRevoked).events.haltMs = s.events.haltMs := rfl

@[simp] theorem State.flagNoticeLost_mode (s : State) (p : Arm) : (s.flagNoticeLost p).mode = s.mode := rfl
@[simp] theorem State.flagNoticeLost_cal (s : State) (p : Arm) : (s.flagNoticeLost p).cal = s.cal := rfl
@[simp] theorem State.flagNoticeLost_profiles (s : State) (p : Arm) : (s.flagNoticeLost p).profiles = s.profiles := rfl
@[simp] theorem State.flagNoticeLost_timing (s : State) (p : Arm) : (s.flagNoticeLost p).timing = s.timing := rfl
@[simp] theorem State.flagNoticeLost_records (s : State) (p : Arm) : (s.flagNoticeLost p).records = s.records := rfl
@[simp] theorem State.flagNoticeLost_guards (s : State) (p : Arm) : (s.flagNoticeLost p).guards = s.guards := rfl
@[simp] theorem State.flagNoticeLost_slots (s : State) (p : Arm) : (s.flagNoticeLost p).slots = s.slots := rfl
@[simp] theorem State.flagNoticeLost_waitList (s : State) (p : Arm) : (s.flagNoticeLost p).waitList = s.waitList := rfl
@[simp] theorem State.flagNoticeLost_links (s : State) (p : Arm) : (s.flagNoticeLost p).links = s.links := rfl
@[simp] theorem State.flagNoticeLost_cell (s : State) (p : Arm) : (s.flagNoticeLost p).cell = s.cell := rfl
@[simp] theorem State.flagNoticeLost_keepOut (s : State) (p : Arm) : (s.flagNoticeLost p).keepOut = s.keepOut := rfl
@[simp] theorem State.flagNoticeLost_lines (s : State) (p : Arm) : (s.flagNoticeLost p).lines = s.lines := rfl
@[simp] theorem State.flagNoticeLost_resetnLow (s : State) (p : Arm) : (s.flagNoticeLost p).resetnLow = s.resetnLow := rfl
@[simp] theorem State.flagNoticeLost_supplyLow (s : State) (p : Arm) : (s.flagNoticeLost p).supplyLow = s.supplyLow := rfl
@[simp] theorem State.flagNoticeLost_pending (s : State) (p : Arm) : (s.flagNoticeLost p).pending = s.pending := rfl
@[simp] theorem State.flagNoticeLost_mask (s : State) (p : Arm) : (s.flagNoticeLost p).events.mask = s.events.mask := rfl
@[simp] theorem State.flagNoticeLost_waitMs (s : State) (p : Arm) : (s.flagNoticeLost p).events.waitMs = s.events.waitMs := rfl
@[simp] theorem State.flagNoticeLost_haltMs (s : State) (p : Arm) : (s.flagNoticeLost p).events.haltMs = s.events.haltMs := rfl

/-! ### Records across the updates of other fields -/

@[simp] theorem State.setRecord_guard (s : State) (p : Arm) (r : ReportRecord) (q : Arm) : (s.setRecord p r).guard q = s.guard q := rfl
@[simp] theorem State.setLink_guard (s : State) (p : Arm) (l : ArmLink) (q : Arm) : (s.setLink p l).guard q = s.guard q := rfl
@[simp] theorem State.setSlot_guard (s : State) (k : Fin 24) (x : Slot) (q : Arm) : (s.setSlot k x).guard q = s.guard q := rfl
@[simp] theorem State.setBody_guard (s : State) (k : Fin 24) (b : SlotBody) (q : Arm) : (s.setBody k b).guard q = s.guard q := rfl
@[simp] theorem State.mapBodies_guard (s : State) (f : Fin 24 → SlotBody → SlotBody) (q : Arm) : (s.mapBodies f).guard q = s.guard q := by simp only [State.guard, State.mapBodies_guards]
@[simp] theorem State.setLine_guard (s : State) (n : Fin 8) (l : Line) (q : Arm) : (s.setLine n l).guard q = s.guard q := rfl
@[simp] theorem State.writeOutputs_guard (s : State) (f : Fin 8 → Bool → Bool) (q : Arm) : (s.writeOutputs f).guard q = s.guard q := rfl
@[simp] theorem State.updSticky_guard (s : State) (f : StickyFlags → StickyFlags) (q : Arm) : (s.updSticky f).guard q = s.guard q := rfl
@[simp] theorem State.clearFresh_guard (s : State) (p : Arm) (q : Arm) : (s.clearFresh p).guard q = s.guard q := rfl
@[simp] theorem State.replyArm_guard (s : State) (p : Arm) (kind : Byte) (r : Result) (d : ArmData) (q : Arm) : (s.replyArm p kind r d).guard q = s.guard q := rfl
@[simp] theorem State.replyCell_guard (s : State) (kind : Byte) (r : Result) (c : Bool) (d : CellData) (q : Arm) : (s.replyCell kind r c d).guard q = s.guard q := rfl
@[simp] theorem State.flagStop_guard (s : State) (p : Arm) (q : Arm) : (s.flagStop p).guard q = s.guard q := rfl
@[simp] theorem State.flagLost_guard (s : State) (p : Arm) (q : Arm) : (s.flagLost p).guard q = s.guard q := rfl
@[simp] theorem State.flagLapse_guard (s : State) (q : Arm) : (s.flagLapse).guard q = s.guard q := rfl
@[simp] theorem State.flagWaitExpired_guard (s : State) (q : Arm) : (s.flagWaitExpired).guard q = s.guard q := rfl
@[simp] theorem State.flagRevoked_guard (s : State) (q : Arm) : (s.flagRevoked).guard q = s.guard q := rfl
@[simp] theorem State.flagNoticeLost_guard (s : State) (p : Arm) (q : Arm) : (s.flagNoticeLost p).guard q = s.guard q := rfl

@[simp] theorem State.setRecord_armState (s : State) (p : Arm) (r : ReportRecord) (q : Arm) : (s.setRecord p r).armState q = s.armState q := rfl
@[simp] theorem State.setLink_armState (s : State) (p : Arm) (l : ArmLink) (q : Arm) : (s.setLink p l).armState q = s.armState q := rfl
@[simp] theorem State.setSlot_armState (s : State) (k : Fin 24) (x : Slot) (q : Arm) : (s.setSlot k x).armState q = s.armState q := rfl
@[simp] theorem State.setBody_armState (s : State) (k : Fin 24) (b : SlotBody) (q : Arm) : (s.setBody k b).armState q = s.armState q := rfl
@[simp] theorem State.mapBodies_armState (s : State) (f : Fin 24 → SlotBody → SlotBody) (q : Arm) : (s.mapBodies f).armState q = s.armState q := by simp only [State.armState, State.guard, State.mapBodies_guards]
@[simp] theorem State.setLine_armState (s : State) (n : Fin 8) (l : Line) (q : Arm) : (s.setLine n l).armState q = s.armState q := rfl
@[simp] theorem State.writeOutputs_armState (s : State) (f : Fin 8 → Bool → Bool) (q : Arm) : (s.writeOutputs f).armState q = s.armState q := rfl
@[simp] theorem State.updSticky_armState (s : State) (f : StickyFlags → StickyFlags) (q : Arm) : (s.updSticky f).armState q = s.armState q := rfl
@[simp] theorem State.clearFresh_armState (s : State) (p : Arm) (q : Arm) : (s.clearFresh p).armState q = s.armState q := rfl
@[simp] theorem State.replyArm_armState (s : State) (p : Arm) (kind : Byte) (r : Result) (d : ArmData) (q : Arm) : (s.replyArm p kind r d).armState q = s.armState q := rfl
@[simp] theorem State.replyCell_armState (s : State) (kind : Byte) (r : Result) (c : Bool) (d : CellData) (q : Arm) : (s.replyCell kind r c d).armState q = s.armState q := rfl
@[simp] theorem State.flagStop_armState (s : State) (p : Arm) (q : Arm) : (s.flagStop p).armState q = s.armState q := rfl
@[simp] theorem State.flagLost_armState (s : State) (p : Arm) (q : Arm) : (s.flagLost p).armState q = s.armState q := rfl
@[simp] theorem State.flagLapse_armState (s : State) (q : Arm) : (s.flagLapse).armState q = s.armState q := rfl
@[simp] theorem State.flagWaitExpired_armState (s : State) (q : Arm) : (s.flagWaitExpired).armState q = s.armState q := rfl
@[simp] theorem State.flagRevoked_armState (s : State) (q : Arm) : (s.flagRevoked).armState q = s.armState q := rfl
@[simp] theorem State.flagNoticeLost_armState (s : State) (p : Arm) (q : Arm) : (s.flagNoticeLost p).armState q = s.armState q := rfl

@[simp] theorem State.setGuard_record (s : State) (p : Arm) (g : Guard) (q : Arm) : (s.setGuard p g).record q = s.record q := rfl
@[simp] theorem State.setLink_record (s : State) (p : Arm) (l : ArmLink) (q : Arm) : (s.setLink p l).record q = s.record q := rfl
@[simp] theorem State.setSlot_record (s : State) (k : Fin 24) (x : Slot) (q : Arm) : (s.setSlot k x).record q = s.record q := rfl
@[simp] theorem State.setBody_record (s : State) (k : Fin 24) (b : SlotBody) (q : Arm) : (s.setBody k b).record q = s.record q := rfl
@[simp] theorem State.mapBodies_record (s : State) (f : Fin 24 → SlotBody → SlotBody) (q : Arm) : (s.mapBodies f).record q = s.record q := by simp only [State.record, State.mapBodies_records]
@[simp] theorem State.setLine_record (s : State) (n : Fin 8) (l : Line) (q : Arm) : (s.setLine n l).record q = s.record q := rfl
@[simp] theorem State.writeOutputs_record (s : State) (f : Fin 8 → Bool → Bool) (q : Arm) : (s.writeOutputs f).record q = s.record q := rfl
@[simp] theorem State.updSticky_record (s : State) (f : StickyFlags → StickyFlags) (q : Arm) : (s.updSticky f).record q = s.record q := rfl
@[simp] theorem State.startReportTimer_record (s : State) (p : Arm) (q : Arm) : (s.startReportTimer p).record q = s.record q := rfl
@[simp] theorem State.completeResume_record (s : State) (p : Arm) (q : Arm) : (s.completeResume p).record q = s.record q := rfl
@[simp] theorem State.stopEvent_record (s : State) (p : Arm) (c : StopCause) (q : Arm) : (s.stopEvent p c).record q = s.record q := rfl
@[simp] theorem State.replyArm_record (s : State) (p : Arm) (kind : Byte) (r : Result) (d : ArmData) (q : Arm) : (s.replyArm p kind r d).record q = s.record q := rfl
@[simp] theorem State.replyCell_record (s : State) (kind : Byte) (r : Result) (c : Bool) (d : CellData) (q : Arm) : (s.replyCell kind r c d).record q = s.record q := rfl
@[simp] theorem State.flagStop_record (s : State) (p : Arm) (q : Arm) : (s.flagStop p).record q = s.record q := rfl
@[simp] theorem State.flagLost_record (s : State) (p : Arm) (q : Arm) : (s.flagLost p).record q = s.record q := rfl
@[simp] theorem State.flagLapse_record (s : State) (q : Arm) : (s.flagLapse).record q = s.record q := rfl
@[simp] theorem State.flagWaitExpired_record (s : State) (q : Arm) : (s.flagWaitExpired).record q = s.record q := rfl
@[simp] theorem State.flagRevoked_record (s : State) (q : Arm) : (s.flagRevoked).record q = s.record q := rfl
@[simp] theorem State.flagNoticeLost_record (s : State) (p : Arm) (q : Arm) : (s.flagNoticeLost p).record q = s.record q := rfl

@[simp] theorem State.setGuard_binPart (s : State) (p : Arm) (g : Guard) (q : Arm) : (s.setGuard p g).binPart q = s.binPart q := rfl
@[simp] theorem State.setLink_binPart (s : State) (p : Arm) (l : ArmLink) (q : Arm) : (s.setLink p l).binPart q = s.binPart q := rfl
@[simp] theorem State.setSlot_binPart (s : State) (k : Fin 24) (x : Slot) (q : Arm) : (s.setSlot k x).binPart q = s.binPart q := rfl
@[simp] theorem State.setBody_binPart (s : State) (k : Fin 24) (b : SlotBody) (q : Arm) : (s.setBody k b).binPart q = s.binPart q := rfl
@[simp] theorem State.mapBodies_binPart (s : State) (f : Fin 24 → SlotBody → SlotBody) (q : Arm) : (s.mapBodies f).binPart q = s.binPart q := by simp only [State.binPart, State.record, State.mapBodies_records]
@[simp] theorem State.setLine_binPart (s : State) (n : Fin 8) (l : Line) (q : Arm) : (s.setLine n l).binPart q = s.binPart q := rfl
@[simp] theorem State.writeOutputs_binPart (s : State) (f : Fin 8 → Bool → Bool) (q : Arm) : (s.writeOutputs f).binPart q = s.binPart q := rfl
@[simp] theorem State.updSticky_binPart (s : State) (f : StickyFlags → StickyFlags) (q : Arm) : (s.updSticky f).binPart q = s.binPart q := rfl
@[simp] theorem State.startReportTimer_binPart (s : State) (p : Arm) (q : Arm) : (s.startReportTimer p).binPart q = s.binPart q := rfl
@[simp] theorem State.completeResume_binPart (s : State) (p : Arm) (q : Arm) : (s.completeResume p).binPart q = s.binPart q := rfl
@[simp] theorem State.stopEvent_binPart (s : State) (p : Arm) (c : StopCause) (q : Arm) : (s.stopEvent p c).binPart q = s.binPart q := rfl
@[simp] theorem State.replyArm_binPart (s : State) (p : Arm) (kind : Byte) (r : Result) (d : ArmData) (q : Arm) : (s.replyArm p kind r d).binPart q = s.binPart q := rfl
@[simp] theorem State.replyCell_binPart (s : State) (kind : Byte) (r : Result) (c : Bool) (d : CellData) (q : Arm) : (s.replyCell kind r c d).binPart q = s.binPart q := rfl
@[simp] theorem State.flagStop_binPart (s : State) (p : Arm) (q : Arm) : (s.flagStop p).binPart q = s.binPart q := rfl
@[simp] theorem State.flagLost_binPart (s : State) (p : Arm) (q : Arm) : (s.flagLost p).binPart q = s.binPart q := rfl
@[simp] theorem State.flagLapse_binPart (s : State) (q : Arm) : (s.flagLapse).binPart q = s.binPart q := rfl
@[simp] theorem State.flagWaitExpired_binPart (s : State) (q : Arm) : (s.flagWaitExpired).binPart q = s.binPart q := rfl
@[simp] theorem State.flagRevoked_binPart (s : State) (q : Arm) : (s.flagRevoked).binPart q = s.binPart q := rfl
@[simp] theorem State.flagNoticeLost_binPart (s : State) (p : Arm) (q : Arm) : (s.flagNoticeLost p).binPart q = s.binPart q := rfl

@[simp] theorem State.setGuard_link (s : State) (p : Arm) (g : Guard) (q : Arm) : (s.setGuard p g).link q = s.link q := rfl
@[simp] theorem State.setRecord_link (s : State) (p : Arm) (r : ReportRecord) (q : Arm) : (s.setRecord p r).link q = s.link q := rfl
@[simp] theorem State.setSlot_link (s : State) (k : Fin 24) (x : Slot) (q : Arm) : (s.setSlot k x).link q = s.link q := rfl
@[simp] theorem State.setBody_link (s : State) (k : Fin 24) (b : SlotBody) (q : Arm) : (s.setBody k b).link q = s.link q := rfl
@[simp] theorem State.mapBodies_link (s : State) (f : Fin 24 → SlotBody → SlotBody) (q : Arm) : (s.mapBodies f).link q = s.link q := by simp only [State.link, State.mapBodies_links]
@[simp] theorem State.setLine_link (s : State) (n : Fin 8) (l : Line) (q : Arm) : (s.setLine n l).link q = s.link q := rfl
@[simp] theorem State.writeOutputs_link (s : State) (f : Fin 8 → Bool → Bool) (q : Arm) : (s.writeOutputs f).link q = s.link q := rfl
@[simp] theorem State.updSticky_link (s : State) (f : StickyFlags → StickyFlags) (q : Arm) : (s.updSticky f).link q = s.link q := rfl
@[simp] theorem State.clearFresh_link (s : State) (p : Arm) (q : Arm) : (s.clearFresh p).link q = s.link q := rfl
@[simp] theorem State.startReportTimer_link (s : State) (p : Arm) (q : Arm) : (s.startReportTimer p).link q = s.link q := rfl
@[simp] theorem State.completeResume_link (s : State) (p : Arm) (q : Arm) : (s.completeResume p).link q = s.link q := rfl
@[simp] theorem State.stopEvent_link (s : State) (p : Arm) (c : StopCause) (q : Arm) : (s.stopEvent p c).link q = s.link q := rfl
@[simp] theorem State.replyCell_link (s : State) (kind : Byte) (r : Result) (c : Bool) (d : CellData) (q : Arm) : (s.replyCell kind r c d).link q = s.link q := rfl
@[simp] theorem State.flagStop_link (s : State) (p : Arm) (q : Arm) : (s.flagStop p).link q = s.link q := rfl
@[simp] theorem State.flagLost_link (s : State) (p : Arm) (q : Arm) : (s.flagLost p).link q = s.link q := rfl
@[simp] theorem State.flagLapse_link (s : State) (q : Arm) : (s.flagLapse).link q = s.link q := rfl
@[simp] theorem State.flagWaitExpired_link (s : State) (q : Arm) : (s.flagWaitExpired).link q = s.link q := rfl
@[simp] theorem State.flagRevoked_link (s : State) (q : Arm) : (s.flagRevoked).link q = s.link q := rfl
@[simp] theorem State.flagNoticeLost_link (s : State) (p : Arm) (q : Arm) : (s.flagNoticeLost p).link q = s.link q := rfl

@[simp] theorem State.setGuard_slot (s : State) (p : Arm) (g : Guard) (j : Fin 24) : (s.setGuard p g).slot j = s.slot j := rfl
@[simp] theorem State.setRecord_slot (s : State) (p : Arm) (r : ReportRecord) (j : Fin 24) : (s.setRecord p r).slot j = s.slot j := rfl
@[simp] theorem State.setLink_slot (s : State) (p : Arm) (l : ArmLink) (j : Fin 24) : (s.setLink p l).slot j = s.slot j := rfl
@[simp] theorem State.setLine_slot (s : State) (n : Fin 8) (l : Line) (j : Fin 24) : (s.setLine n l).slot j = s.slot j := rfl
@[simp] theorem State.writeOutputs_slot (s : State) (f : Fin 8 → Bool → Bool) (j : Fin 24) : (s.writeOutputs f).slot j = s.slot j := rfl
@[simp] theorem State.updSticky_slot (s : State) (f : StickyFlags → StickyFlags) (j : Fin 24) : (s.updSticky f).slot j = s.slot j := rfl
@[simp] theorem State.clearFresh_slot (s : State) (p : Arm) (j : Fin 24) : (s.clearFresh p).slot j = s.slot j := rfl
@[simp] theorem State.startReportTimer_slot (s : State) (p : Arm) (j : Fin 24) : (s.startReportTimer p).slot j = s.slot j := rfl
@[simp] theorem State.completeResume_slot (s : State) (p : Arm) (j : Fin 24) : (s.completeResume p).slot j = s.slot j := rfl
@[simp] theorem State.stopEvent_slot (s : State) (p : Arm) (c : StopCause) (j : Fin 24) : (s.stopEvent p c).slot j = s.slot j := rfl
@[simp] theorem State.replyArm_slot (s : State) (p : Arm) (kind : Byte) (r : Result) (d : ArmData) (j : Fin 24) : (s.replyArm p kind r d).slot j = s.slot j := rfl
@[simp] theorem State.replyCell_slot (s : State) (kind : Byte) (r : Result) (c : Bool) (d : CellData) (j : Fin 24) : (s.replyCell kind r c d).slot j = s.slot j := rfl
@[simp] theorem State.flagStop_slot (s : State) (p : Arm) (j : Fin 24) : (s.flagStop p).slot j = s.slot j := rfl
@[simp] theorem State.flagLost_slot (s : State) (p : Arm) (j : Fin 24) : (s.flagLost p).slot j = s.slot j := rfl
@[simp] theorem State.flagLapse_slot (s : State) (j : Fin 24) : (s.flagLapse).slot j = s.slot j := rfl
@[simp] theorem State.flagWaitExpired_slot (s : State) (j : Fin 24) : (s.flagWaitExpired).slot j = s.slot j := rfl
@[simp] theorem State.flagRevoked_slot (s : State) (j : Fin 24) : (s.flagRevoked).slot j = s.slot j := rfl
@[simp] theorem State.flagNoticeLost_slot (s : State) (p : Arm) (j : Fin 24) : (s.flagNoticeLost p).slot j = s.slot j := rfl

@[simp] theorem State.setGuard_body (s : State) (p : Arm) (g : Guard) (j : Fin 24) : (s.setGuard p g).body j = s.body j := rfl
@[simp] theorem State.setRecord_body (s : State) (p : Arm) (r : ReportRecord) (j : Fin 24) : (s.setRecord p r).body j = s.body j := rfl
@[simp] theorem State.setLink_body (s : State) (p : Arm) (l : ArmLink) (j : Fin 24) : (s.setLink p l).body j = s.body j := rfl
@[simp] theorem State.setLine_body (s : State) (n : Fin 8) (l : Line) (j : Fin 24) : (s.setLine n l).body j = s.body j := rfl
@[simp] theorem State.writeOutputs_body (s : State) (f : Fin 8 → Bool → Bool) (j : Fin 24) : (s.writeOutputs f).body j = s.body j := rfl
@[simp] theorem State.updSticky_body (s : State) (f : StickyFlags → StickyFlags) (j : Fin 24) : (s.updSticky f).body j = s.body j := rfl
@[simp] theorem State.clearFresh_body (s : State) (p : Arm) (j : Fin 24) : (s.clearFresh p).body j = s.body j := rfl
@[simp] theorem State.startReportTimer_body (s : State) (p : Arm) (j : Fin 24) : (s.startReportTimer p).body j = s.body j := rfl
@[simp] theorem State.completeResume_body (s : State) (p : Arm) (j : Fin 24) : (s.completeResume p).body j = s.body j := rfl
@[simp] theorem State.stopEvent_body (s : State) (p : Arm) (c : StopCause) (j : Fin 24) : (s.stopEvent p c).body j = s.body j := rfl
@[simp] theorem State.replyArm_body (s : State) (p : Arm) (kind : Byte) (r : Result) (d : ArmData) (j : Fin 24) : (s.replyArm p kind r d).body j = s.body j := rfl
@[simp] theorem State.replyCell_body (s : State) (kind : Byte) (r : Result) (c : Bool) (d : CellData) (j : Fin 24) : (s.replyCell kind r c d).body j = s.body j := rfl
@[simp] theorem State.flagStop_body (s : State) (p : Arm) (j : Fin 24) : (s.flagStop p).body j = s.body j := rfl
@[simp] theorem State.flagLost_body (s : State) (p : Arm) (j : Fin 24) : (s.flagLost p).body j = s.body j := rfl
@[simp] theorem State.flagLapse_body (s : State) (j : Fin 24) : (s.flagLapse).body j = s.body j := rfl
@[simp] theorem State.flagWaitExpired_body (s : State) (j : Fin 24) : (s.flagWaitExpired).body j = s.body j := rfl
@[simp] theorem State.flagRevoked_body (s : State) (j : Fin 24) : (s.flagRevoked).body j = s.body j := rfl
@[simp] theorem State.flagNoticeLost_body (s : State) (p : Arm) (j : Fin 24) : (s.flagNoticeLost p).body j = s.body j := rfl

@[simp] theorem State.setGuard_line (s : State) (p : Arm) (g : Guard) (m : Fin 8) : (s.setGuard p g).line m = s.line m := rfl
@[simp] theorem State.setRecord_line (s : State) (p : Arm) (r : ReportRecord) (m : Fin 8) : (s.setRecord p r).line m = s.line m := rfl
@[simp] theorem State.setLink_line (s : State) (p : Arm) (l : ArmLink) (m : Fin 8) : (s.setLink p l).line m = s.line m := rfl
@[simp] theorem State.setSlot_line (s : State) (k : Fin 24) (x : Slot) (m : Fin 8) : (s.setSlot k x).line m = s.line m := rfl
@[simp] theorem State.setBody_line (s : State) (k : Fin 24) (b : SlotBody) (m : Fin 8) : (s.setBody k b).line m = s.line m := rfl
@[simp] theorem State.mapBodies_line (s : State) (f : Fin 24 → SlotBody → SlotBody) (m : Fin 8) : (s.mapBodies f).line m = s.line m := by simp only [State.line, State.mapBodies_lines]
@[simp] theorem State.updSticky_line (s : State) (f : StickyFlags → StickyFlags) (m : Fin 8) : (s.updSticky f).line m = s.line m := rfl
@[simp] theorem State.clearFresh_line (s : State) (p : Arm) (m : Fin 8) : (s.clearFresh p).line m = s.line m := rfl
@[simp] theorem State.startReportTimer_line (s : State) (p : Arm) (m : Fin 8) : (s.startReportTimer p).line m = s.line m := rfl
@[simp] theorem State.completeResume_line (s : State) (p : Arm) (m : Fin 8) : (s.completeResume p).line m = s.line m := rfl
@[simp] theorem State.stopEvent_line (s : State) (p : Arm) (c : StopCause) (m : Fin 8) : (s.stopEvent p c).line m = s.line m := rfl
@[simp] theorem State.replyArm_line (s : State) (p : Arm) (kind : Byte) (r : Result) (d : ArmData) (m : Fin 8) : (s.replyArm p kind r d).line m = s.line m := rfl
@[simp] theorem State.replyCell_line (s : State) (kind : Byte) (r : Result) (c : Bool) (d : CellData) (m : Fin 8) : (s.replyCell kind r c d).line m = s.line m := rfl
@[simp] theorem State.flagStop_line (s : State) (p : Arm) (m : Fin 8) : (s.flagStop p).line m = s.line m := rfl
@[simp] theorem State.flagLost_line (s : State) (p : Arm) (m : Fin 8) : (s.flagLost p).line m = s.line m := rfl
@[simp] theorem State.flagLapse_line (s : State) (m : Fin 8) : (s.flagLapse).line m = s.line m := rfl
@[simp] theorem State.flagWaitExpired_line (s : State) (m : Fin 8) : (s.flagWaitExpired).line m = s.line m := rfl
@[simp] theorem State.flagRevoked_line (s : State) (m : Fin 8) : (s.flagRevoked).line m = s.line m := rfl
@[simp] theorem State.flagNoticeLost_line (s : State) (p : Arm) (m : Fin 8) : (s.flagNoticeLost p).line m = s.line m := rfl

/-! ### Records read back -/

@[simp] theorem State.guard_setGuard_self (s : State) (p : Arm) (g : Guard) : (s.setGuard p g).guard p = g :=
  PerArm.get_set_self _ _ _

theorem State.guard_setGuard (s : State) (p q : Arm) (g : Guard) :
    (s.setGuard p g).guard q = if q = p then g else s.guard q := PerArm.get_set _ _ _ _

theorem State.armState_setGuard (s : State) (p q : Arm) (g : Guard) :
    (s.setGuard p g).armState q = if q = p then g.state else s.armState q := by
  unfold State.armState
  rw [State.guard_setGuard]
  split <;> rfl

@[simp] theorem State.record_setRecord_self (s : State) (p : Arm) (r : ReportRecord) :
    (s.setRecord p r).record p = r := PerArm.get_set_self _ _ _

theorem State.record_setRecord (s : State) (p q : Arm) (r : ReportRecord) :
    (s.setRecord p r).record q = if q = p then r else s.record q := PerArm.get_set _ _ _ _

theorem State.record_clearFresh (s : State) (p q : Arm) :
    (s.clearFresh p).record q = if q = p then { s.record p with fresh := false } else s.record q :=
  PerArm.get_set _ _ _ _

@[simp] theorem State.binPart_clearFresh (s : State) (p q : Arm) : (s.clearFresh p).binPart q = s.binPart q := by
  unfold State.binPart
  rw [State.record_clearFresh]
  by_cases h : q = p
  · subst h; rw [if_pos rfl]
  · rw [if_neg h]

@[simp] theorem State.link_setLink_self (s : State) (p : Arm) (l : ArmLink) : (s.setLink p l).link p = l :=
  PerArm.get_set_self _ _ _

theorem State.link_setLink (s : State) (p q : Arm) (l : ArmLink) :
    (s.setLink p l).link q = if q = p then l else s.link q := PerArm.get_set _ _ _ _

theorem State.slot_setSlot (s : State) (k j : Fin 24) (x : Slot) :
    (s.setSlot k x).slot j = if j = k then x else s.slot j := by
  unfold State.slot State.setSlot
  simp only [Fin.getElem_fin]
  rw [Vector.getElem_set]
  simp only [Fin.val_inj, eq_comm]

@[simp] theorem State.slot_setSlot_self (s : State) (k : Fin 24) (x : Slot) : (s.setSlot k x).slot k = x := by
  rw [State.slot_setSlot, if_pos rfl]

theorem State.body_setSlot (s : State) (k j : Fin 24) (x : Slot) :
    (s.setSlot k x).body j = if j = k then x.body else s.body j := by
  unfold State.body
  rw [State.slot_setSlot]
  split <;> rfl

theorem State.slot_setBody (s : State) (k j : Fin 24) (b : SlotBody) :
    (s.setBody k b).slot j = if j = k then { s.slot k with body := b } else s.slot j := State.slot_setSlot _ _ _ _

theorem State.body_setBody (s : State) (k j : Fin 24) (b : SlotBody) :
    (s.setBody k b).body j = if j = k then b else s.body j := by
  unfold State.body
  rw [State.slot_setBody]
  split <;> rfl

@[simp] theorem State.body_setBody_self (s : State) (k : Fin 24) (b : SlotBody) : (s.setBody k b).body k = b := by
  rw [State.body_setBody, if_pos rfl]

@[simp] theorem State.gen_setBody (s : State) (k j : Fin 24) (b : SlotBody) :
    ((s.setBody k b).slot j).gen = (s.slot j).gen := by
  rw [State.slot_setBody]
  split
  · next h => subst h; rfl
  · rfl

@[simp] theorem State.slot_mapBodies (s : State) (f : Fin 24 → SlotBody → SlotBody) (j : Fin 24) :
    (s.mapBodies f).slot j = { s.slot j with body := f j (s.body j) } := by
  unfold State.slot State.mapBodies
  simp only [Fin.getElem_fin, Vector.getElem_ofFn]
  rfl

@[simp] theorem State.body_mapBodies (s : State) (f : Fin 24 → SlotBody → SlotBody) (j : Fin 24) :
    (s.mapBodies f).body j = f j (s.body j) := by
  unfold State.body
  rw [State.slot_mapBodies]
  rfl

theorem State.line_setLine (s : State) (n m : Fin 8) (l : Line) :
    (s.setLine n l).line m = if m = n then l else s.line m := by
  unfold State.line State.setLine
  simp only [Fin.getElem_fin]
  rw [Vector.getElem_set]
  simp only [Fin.val_inj, eq_comm]

@[simp] theorem State.line_setLine_self (s : State) (n : Fin 8) (l : Line) : (s.setLine n l).line n = l := by
  rw [State.line_setLine, if_pos rfl]

@[simp] theorem State.line_writeOutputs (s : State) (f : Fin 8 → Bool → Bool) (n : Fin 8) :
    (s.writeOutputs f).line n = { s.line n with out := f n (s.line n).out } := by
  show (Vector.ofFn fun n => { s.line n with out := f n (s.line n).out })[n] = _
  simp only [Fin.getElem_fin, Vector.getElem_ofFn]

theorem State.slots_ext {s t : State} (h : ∀ k, s.slot k = t.slot k) : s.slots = t.slots := by
  refine Vector.ext fun i hi => ?_
  exact h ⟨i, hi⟩

theorem State.lines_ext {s t : State} (h : ∀ n, s.line n = t.line n) : s.lines = t.lines := by
  refine Vector.ext fun i hi => ?_
  exact h ⟨i, hi⟩

/-! ### Reads that depend on a few fields -/

theorem State.inReset_congr {s t : State} (h1 : t.resetnLow = s.resetnLow) (h2 : t.supplyLow = s.supplyLow) :
    t.inReset = s.inReset := by
  unfold State.inReset; rw [h1, h2]

theorem State.groupActive_congr {s t : State} (h1 : t.keepOut = s.keepOut) (h2 : t.lines = s.lines) (g : Group) :
    t.groupActive g = s.groupActive g := by
  unfold State.groupActive State.groupLineActive State.line; rw [h1, h2]

theorem State.estopActive_congr {s t : State} (h : t.lines = s.lines) : t.estopActive = s.estopActive := by
  unfold State.estopActive State.line; rw [h]

theorem State.activeGroupsTouched_congr {s t : State} (h1 : t.keepOut = s.keepOut) (h2 : t.lines = s.lines) (b : Box) :
    t.activeGroupsTouched b = s.activeGroupsTouched b := by
  unfold State.activeGroupsTouched
  rw [h1]
  exact congrArg (allGroups.filter ·) (funext fun g => by rw [State.groupActive_congr h1 h2])

theorem State.partIntrudes_congr {s t : State} (h1 : t.keepOut = s.keepOut) (h2 : t.lines = s.lines)
    (b : Option Box) : t.partIntrudes b = s.partIntrudes b := by
  cases b
  · rfl
  · simp only [State.partIntrudes, State.activeGroupsTouched_congr h1 h2]

theorem State.body_congr {s t : State} (h : t.slots = s.slots) (k : Fin 24) : t.body k = s.body k := by
  unfold State.body State.slot; rw [h]

theorem State.liveClaimContains_congr {s t : State} (h : t.slots = s.slots) (p : Arm) (b : Box) :
    t.liveClaimContains p b = s.liveClaimContains p b := by
  unfold State.liveClaimContains State.body State.slot; rw [h]

theorem State.countOf_congr {s t : State} (h : t.slots = s.slots) (p : Arm) : t.countOf p = s.countOf p := by
  unfold State.countOf State.claimsOf State.holdsClaim State.body State.slot; rw [h]

theorem State.hasWaiting_congr {s t : State} (h : t.slots = s.slots) (p : Arm) :
    t.hasWaiting p = s.hasWaiting p := by
  unfold State.hasWaiting State.holdsWaiting State.body State.slot; rw [h]

theorem State.screen_congr {s t : State} (h0 : t.slots = s.slots) (h1 : t.keepOut = s.keepOut)
    (h2 : t.lines = s.lines) (h3 : t.timing = s.timing) (p : Arm) (box : Box) (ahead : Fin 24 → Bool) :
    t.screen p box ahead = s.screen p box ahead := by
  unfold State.screen
  rw [State.activeGroupsTouched_congr h1 h2]
  congr 1
  refine congrArg (allSlots.filter ·) (funext fun k => ?_)
  unfold State.blocksCandidate
  rw [State.body_congr h0, h3]

end Sys2Proof.Machine
end

