-- ==== Sys2Proof/Laws/ClaimTable.lean ====
section
/-! SUPPORT. What each operation of the Claim Table can do, said once: notices, retirement, the re-screen walk, and the
event that they make together (`retireAndRescreen_event`). -/

namespace Sys2Proof.Machine

/-! ### Frames -/

theorem RecordKept.refl (r : ReportRecord) : RecordKept r r := .inl rfl

theorem RecordKept.trans {r r' r'' : ReportRecord} (h : RecordKept r r') (h' : RecordKept r' r'') :
    RecordKept r r'' := by
  rcases h with rfl | ⟨l, hl, hp, rfl⟩
  · exact h'
  · rcases h' with rfl | ⟨l', hl', hp', rfl⟩
    · exact .inr ⟨l, hl, hp, rfl⟩
    · simp only [Option.some.injEq] at hl'
      subst hl'
      cases hp'

theorem LinkKept.refl (l : ArmLink) : LinkKept l l := ⟨rfl, rfl, rfl⟩

theorem LinkKept.trans {l l' l'' : ArmLink} (h : LinkKept l l') (h' : LinkKept l' l'') : LinkKept l l'' :=
  ⟨h'.1.trans h.1, h'.2.1.trans h.2.1, h'.2.2.trans h.2.2⟩

theorem TableFrame.refl (s : State) : TableFrame s s :=
  ⟨rfl, rfl, rfl, rfl, rfl, rfl, rfl, rfl, rfl, rfl, rfl, rfl, rfl, rfl, fun _ => .refl _, fun _ => .refl _⟩

theorem TableFrame.trans {s t u : State} (h : TableFrame s t) (h' : TableFrame t u) : TableFrame s u where
  mode := h'.mode.trans h.mode
  cal := h'.cal.trans h.cal
  profiles := h'.profiles.trans h.profiles
  timing := h'.timing.trans h.timing
  guards := h'.guards.trans h.guards
  cell := h'.cell.trans h.cell
  keepOut := h'.keepOut.trans h.keepOut
  lines := h'.lines.trans h.lines
  resetnLow := h'.resetnLow.trans h.resetnLow
  supplyLow := h'.supplyLow.trans h.supplyLow
  pending := h'.pending.trans h.pending
  mask := h'.mask.trans h.mask
  waitMs := h'.waitMs.trans h.waitMs
  haltMs := h'.haltMs.trans h.haltMs
  records p := (h.records p).trans (h'.records p)
  links p := (h.links p).trans (h'.links p)

theorem TableFrame.entryMs {s t : State} (h : TableFrame s t) : t.entryMs = s.entryMs := by
  unfold State.entryMs; rw [h.timing]

/-- A change of slots and of the wait list alone. -/
theorem TableFrame.of_slots (s : State) (x : Vector Slot 24) (w : List (Fin 24)) :
    TableFrame s { s with slots := x, waitList := w } :=
  ⟨rfl, rfl, rfl, rfl, rfl, rfl, rfl, rfl, rfl, rfl, rfl, rfl, rfl, rfl, fun _ => .refl _, fun _ => .refl _⟩

/-! ### Notices -/

theorem Queued.refl (s : State) (q : Arm) : Queued s s q [] :=
  ⟨by simp, by simp, by simp, .refl _⟩

theorem Queued.of_eq {s t : State} {q : Arm} (hl : t.link q = s.link q)
    (hf : t.events.sticky.noticeLost.get q = s.events.sticky.noticeLost.get q) : Queued s t q [] :=
  ⟨by simp [hl], by simp [hl], by simp [hf], by rw [hl]; exact .refl _⟩

theorem Queued.trans {s t u : State} {q : Arm} {ns ms : List Notice} (h : Queued s t q ns) (h' : Queued t u q ms) :
    Queued s u q (ns ++ ms) := by
  have hlen : Config.noticeCapacity - (t.link q).queue.length =
      Config.noticeCapacity - (s.link q).queue.length - ns.length := by
    rw [h.queue, List.length_append, List.length_take]
    omega
  refine ⟨?_, ?_, ?_, h.kept.trans h'.kept⟩
  · rw [h'.queue, hlen, h.queue, List.append_assoc, List.take_append]
  · rw [h'.lost, hlen, h.lost, Bool.or_assoc, ← Bool.decide_or, List.length_append]
    congr 1
    exact decide_eq_decide.mpr (by omega)
  · rw [h'.flag, hlen, h.flag, Bool.or_assoc, ← Bool.decide_or, List.length_append]
    congr 1
    exact decide_eq_decide.mpr (by omega)

/-- All that a notice changes: its own arm's queue, or NOTICE_LOST. -/
theorem queueNotice_frame (s : State) (p : Arm) (n : Notice) :
    TableFrame s (s.queueNotice p n) ∧ (s.queueNotice p n).slots = s.slots ∧
      (s.queueNotice p n).waitList = s.waitList ∧ (s.queueNotice p n).records = s.records ∧
      (s.queueNotice p n).events.sticky.quietOf = s.events.sticky.quietOf := by
  unfold State.queueNotice
  simp only
  split
  · refine ⟨⟨rfl, rfl, rfl, rfl, rfl, rfl, rfl, rfl, rfl, rfl, rfl, rfl, rfl, rfl, fun _ => .refl _, fun q => ?_⟩,
      rfl, rfl, rfl, rfl⟩
    rw [State.link_setLink]
    split
    · next h => subst h; exact ⟨rfl, rfl, rfl⟩
    · exact .refl _
  · refine ⟨⟨rfl, rfl, rfl, rfl, rfl, rfl, rfl, rfl, rfl, rfl, rfl, rfl, rfl, rfl, fun _ => .refl _, fun q => ?_⟩,
      rfl, rfl, rfl, rfl⟩
    rw [State.flagNoticeLost_link, State.link_setLink]
    split
    · next h => subst h; exact ⟨rfl, rfl, rfl⟩
    · exact .refl _

theorem queueNotice_queued (s : State) (p : Arm) (n : Notice) (q : Arm) :
    Queued s (s.queueNotice p n) q (if q = p then [n] else []) := by
  by_cases hq : q = p
  · subst hq
    rw [if_pos rfl]
    unfold State.queueNotice
    simp only
    split
    · next h =>
      have h1 : 1 ≤ Config.noticeCapacity - (s.link q).queue.length := by omega
      refine ⟨?_, ?_, ?_, ?_⟩
      · rw [State.link_setLink_self, List.take_of_length_le (by simpa using h1)]
      · rw [State.link_setLink_self, decide_eq_false (by simp only [List.length_singleton]; omega), Bool.or_false]
      · rw [State.setLink_events, decide_eq_false (by simp only [List.length_singleton]; omega), Bool.or_false]
      · rw [State.link_setLink_self]; exact ⟨rfl, rfl, rfl⟩
    · next h =>
      have h1 : Config.noticeCapacity - (s.link q).queue.length = 0 := by omega
      refine ⟨?_, ?_, ?_, ?_⟩
      · rw [State.flagNoticeLost_link, State.link_setLink_self, h1]; simp
      · rw [State.flagNoticeLost_link, State.link_setLink_self, h1]; simp
      · rw [h1]
        show ((s.setLink q _).events.sticky.noticeLost.set q true).get q = _
        rw [PerArm.get_set_self]; simp
      · rw [State.flagNoticeLost_link, State.link_setLink_self]; exact ⟨rfl, rfl, rfl⟩
  · rw [if_neg hq]
    unfold State.queueNotice
    simp only
    split
    · exact Queued.of_eq (by rw [State.link_setLink, if_neg hq]) rfl
    · refine Queued.of_eq (by rw [State.flagNoticeLost_link, State.link_setLink, if_neg hq]) ?_
      show ((s.setLink p _).events.sticky.noticeLost.set p true).get q = _
      rw [PerArm.get_set, if_neg hq]; rfl

/-! ### Freeing a slot -/

theorem freeSlot_frame (s : State) (k : Fin 24) : TableFrame s (s.freeSlot k) := TableFrame.of_slots s _ _

theorem slot_freeSlot (s : State) (k j : Fin 24) :
    (s.freeSlot k).slot j = if j = k then { gen := (s.slot k).gen + 1, body := .free } else s.slot j :=
  State.slot_setSlot s k j _

theorem body_freeSlot (s : State) (k j : Fin 24) :
    (s.freeSlot k).body j = if j = k then .free else s.body j := by
  unfold State.body
  rw [slot_freeSlot]
  split <;> rfl

@[simp] theorem waitList_freeSlot (s : State) (k : Fin 24) :
    (s.freeSlot k).waitList = s.waitList.filter fun j => j != k := rfl

/-! ### The kept place -/

/-- R118: what a re-judgement of the place does to the records. -/
theorem rejudgePlace_frame (s : State) (p : Arm) :
    TableFrame s (s.rejudgePlace p) ∧ (s.rejudgePlace p).slots = s.slots ∧
      (s.rejudgePlace p).waitList = s.waitList ∧ (s.rejudgePlace p).links = s.links ∧
      (s.rejudgePlace p).events = s.events := by
  unfold State.rejudgePlace
  simp only
  split
  · exact ⟨.refl _, rfl, rfl, rfl, rfl⟩
  · next l hl =>
    split
    · next hp hb =>
      split
      · exact ⟨.refl _, rfl, rfl, rfl, rfl⟩
      · refine ⟨⟨rfl, rfl, rfl, rfl, rfl, rfl, rfl, rfl, rfl, rfl, rfl, rfl, rfl, rfl, fun q => ?_,
          fun _ => .refl _⟩, rfl, rfl, rfl, rfl⟩
        rw [State.record_setRecord]
        split
        · next h => subst h; exact .inr ⟨l, hl, hp, rfl⟩
        · exact .refl _
    · exact ⟨.refl _, rfl, rfl, rfl, rfl⟩

/-- The kept place of arm p is CONTAINED and no live claim of p contains its recorded bin part. -/
def State.placeStale (s : State) (p : Arm) : Bool :=
  match (s.record p).last with
  | none => false
  | some l =>
    l.verdict.place == .contained &&
      match l.binPart with
      | none => false
      | some b => !s.liveClaimContains p b

theorem placeStale_eq {s : State} {p : Arm} {l : LastReport} {b : Box} (hl : (s.record p).last = some l)
    (hp : l.verdict.place = .contained) (hb : l.binPart = some b) :
    s.placeStale p = !s.liveClaimContains p b := by
  unfold State.placeStale
  rw [hl]
  simp only [hp, hb, beq_self_eq_true, Bool.true_and]

theorem rejudgePlace_record (s : State) (p q : Arm) :
    (s.rejudgePlace p).record q = if q = p ∧ s.placeStale p = true then (s.record q).escaped else s.record q := by
  cases hl : (s.record p).last with
  | none =>
    have h1 : s.rejudgePlace p = s := by unfold State.rejudgePlace; simp only [hl]
    have h2 : s.placeStale p = false := by unfold State.placeStale; rw [hl]
    rw [h1, h2, if_neg (by simp)]
  | some l =>
    by_cases hpb : l.verdict.place = .contained ∧ ∃ b, l.binPart = some b
    · obtain ⟨hp, b, hb⟩ := hpb
      rw [placeStale_eq hl hp hb]
      by_cases hc : s.liveClaimContains p b = true
      · have h1 : s.rejudgePlace p = s := by unfold State.rejudgePlace; simp only [hl, hp, hb, hc, if_true]
        rw [h1, hc, if_neg (by simp)]
      · have h1 : s.rejudgePlace p = s.setRecord p (s.record p).escaped := by
          unfold State.rejudgePlace ReportRecord.escaped
          simp only [hl, hp, hb, if_neg hc, Option.map_some]
        rw [h1, State.record_setRecord]
        by_cases hq : q = p
        · subst hq; simp [hc]
        · simp [hq]
    · have h1 : s.rejudgePlace p = s := by
        unfold State.rejudgePlace
        simp only [hl]
        split
        · next b hp hb => exact absurd ⟨hp, b, hb⟩ hpb
        · rfl
      have h2 : s.placeStale p = false := by
        unfold State.placeStale
        rw [hl]
        cases hp : l.verdict.place <;> cases hb : l.binPart <;> simp_all
      rw [h1, h2, if_neg (by simp)]

/-! ### Retirement -/

/-- The slots and the wait list after one retirement, and what it leaves alone (R89). -/
theorem retire_frame (s : State) (k : Fin 24) (n : Option NoticeKind) (r : Bool) : TableFrame s (s.retire k n r) := by
  unfold State.retire
  split
  · exact .refl _
  · next c hc =>
    have h1 := freeSlot_frame s k
    cases n with
    | none =>
      simp only
      split
      · exact h1.trans (rejudgePlace_frame _ _).1
      · exact h1
    | some m =>
      simp only
      have h2 := h1.trans (queueNotice_frame (s.freeSlot k) c.owner
        { kind := m, slot := k, gen := (s.slot k).gen }).1
      split
      · exact h2.trans (rejudgePlace_frame _ _).1
      · exact h2

/-- The state after one retirement but for its re-judgement of the place. -/
def State.told (s : State) (k : Fin 24) (c : ClaimData) (n : Option NoticeKind) : State :=
  match n with
  | none => s.freeSlot k
  | some n => (s.freeSlot k).queueNotice c.owner (noticeOf s n k)

theorem retire_eq (s : State) (k : Fin 24) (n : Option NoticeKind) (r : Bool) {c : ClaimData}
    (hc : (s.body k).claim = some c) :
    s.retire k n r =
      if (s.body k).live.isSome && !r then (s.told k c n).rejudgePlace c.owner else s.told k c n := by
  unfold State.retire State.told
  rw [hc]
  cases n <;> rfl

theorem told_fields (s : State) (k : Fin 24) (c : ClaimData) (n : Option NoticeKind) :
    (s.told k c n).slots = (s.freeSlot k).slots ∧ (s.told k c n).waitList = (s.freeSlot k).waitList ∧
      (s.told k c n).records = s.records ∧ (s.told k c n).events.sticky.quietOf = s.events.sticky.quietOf := by
  unfold State.told
  cases n with
  | none => exact ⟨rfl, rfl, rfl, rfl⟩
  | some m =>
    have h := queueNotice_frame (s.freeSlot k) c.owner (noticeOf s m k)
    exact ⟨h.2.1, h.2.2.1, h.2.2.2.1, h.2.2.2.2⟩

theorem retire_slots (s : State) (k : Fin 24) (n : Option NoticeKind) (r : Bool) {c : ClaimData}
    (hc : (s.body k).claim = some c) :
    (s.retire k n r).slots = (s.freeSlot k).slots ∧ (s.retire k n r).waitList = (s.freeSlot k).waitList ∧
      (s.retire k n r).events.sticky.quietOf = s.events.sticky.quietOf := by
  have ht := told_fields s k c n
  rw [retire_eq s k n r hc]
  split
  · have hj := rejudgePlace_frame (s.told k c n) c.owner
    exact ⟨hj.2.1.trans ht.1, hj.2.2.1.trans ht.2.1, by rw [hj.2.2.2.2]; exact ht.2.2.2⟩
  · exact ⟨ht.1, ht.2.1, ht.2.2.2⟩

theorem slot_retire (s : State) (k j : Fin 24) (n : Option NoticeKind) (r : Bool)
    (hc : (s.body k).claim.isSome = true) :
    (s.retire k n r).slot j = if j = k then { gen := (s.slot k).gen + 1, body := .free } else s.slot j := by
  obtain ⟨c, hc⟩ := Option.isSome_iff_exists.mp hc
  have h : (s.retire k n r).slot j = (s.freeSlot k).slot j := by
    unfold State.slot; rw [(retire_slots s k n r hc).1]
  rw [h, slot_freeSlot]

theorem ownedBy_some (p : Arm) (c : ClaimData) : ownedBy p (some c) = (c.owner == p) := rfl

theorem holdsClaim_eq {s : State} {k : Fin 24} {c : ClaimData} (hc : (s.body k).claim = some c) (q : Arm) :
    s.holdsClaim q k = (c.owner == q) := by
  unfold State.holdsClaim; rw [hc]; rfl

/-- The notice of one retirement, where its cause names one. -/
theorem retire_queued (s : State) (k : Fin 24) (n : Option NoticeKind) (r : Bool)
    (hc : (s.body k).claim.isSome = true) (q : Arm) :
    Queued s (s.retire k n r) q (retirementNotices s q [k] n) := by
  obtain ⟨c, hc⟩ := Option.isSome_iff_exists.mp hc
  have htold : Queued s (s.told k c n) q (retirementNotices s q [k] n) := by
    unfold State.told retirementNotices
    cases n with
    | none => exact Queued.of_eq rfl rfl
    | some m =>
      simp only
      have h0 : Queued s (s.freeSlot k) q [] := Queued.of_eq rfl rfl
      have h := h0.trans (queueNotice_queued (s.freeSlot k) c.owner (noticeOf s m k) q)
      rw [List.nil_append] at h
      rw [List.filter_singleton, holdsClaim_eq hc]
      by_cases hq : q = c.owner
      · subst hq
        rw [if_pos rfl] at h
        simpa using h
      · rw [if_neg hq] at h
        have : (c.owner == q) = false := by simpa using fun e => hq e.symm
        simpa [this] using h
  rw [retire_eq s k n r hc]
  split
  · have hj := rejudgePlace_frame (s.told k c n) c.owner
    have := htold.trans (Queued.of_eq (q := q) (t := (s.told k c n).rejudgePlace c.owner)
      (by unfold State.link; rw [hj.2.2.2.1]) (by rw [hj.2.2.2.2]))
    rwa [List.append_nil] at this
  · exact htold

theorem body_retire (s : State) (k j : Fin 24) (n : Option NoticeKind) (r : Bool)
    (hc : (s.body k).claim.isSome = true) :
    (s.retire k n r).body j = if j = k then .free else s.body j := by
  unfold State.body
  rw [slot_retire s k j n r hc]
  split <;> rfl

theorem waitList_retire (s : State) (k : Fin 24) (n : Option NoticeKind) (r : Bool)
    (hc : (s.body k).claim.isSome = true) :
    (s.retire k n r).waitList = s.waitList.filter fun j => j != k := by
  obtain ⟨c, hc⟩ := Option.isSome_iff_exists.mp hc
  rw [(retire_slots s k n r hc).2.1]
  rfl

/-- The claim in a slot by its state: live, WAITING, or either. -/
theorem live_eq_some_iff (s : State) (k : Fin 24) (c : ClaimData) : (s.body k).live = some c ↔ LiveAt s k c := by
  unfold LiveAt
  cases s.body k <;> simp [SlotBody.live]

theorem waitingClaim_eq_some_iff (s : State) (k : Fin 24) (c : ClaimData) :
    (s.body k).waitingClaim = some c ↔ WaitingAt s k c := by
  unfold WaitingAt
  cases s.body k <;> simp [SlotBody.waitingClaim]

theorem claim_eq_some_iff (s : State) (k : Fin 24) (c : ClaimData) :
    (s.body k).claim = some c ↔ LiveAt s k c ∨ WaitingAt s k c := by
  unfold WaitingAt LiveAt
  cases s.body k <;> simp [SlotBody.claim]

theorem ownedBy_iff (p : Arm) (o : Option ClaimData) : ownedBy p o = true ↔ ∃ c, o = some c ∧ c.owner = p := by
  cases o <;> simp [ownedBy]

theorem liveClaimContains_iff (s : State) (p : Arm) (b : Box) :
    s.liveClaimContains p b = true ↔
      ∃ k c, (s.body k).live = some c ∧ c.owner = p ∧ b.containedIn c.box = true := by
  unfold State.liveClaimContains
  rw [List.any_eq_true]
  constructor
  · rintro ⟨k, -, hk⟩
    cases hl : (s.body k).live with
    | none => simp [hl] at hk
    | some c =>
      simp only [hl, Bool.and_eq_true, beq_iff_eq] at hk
      exact ⟨k, c, hl, hk.1, hk.2⟩
  · rintro ⟨k, c, hl, ho, hb⟩
    exact ⟨k, mem_allSlots k, by simp [hl, ho, hb]⟩

theorem holdsLive_iff (s : State) (p : Arm) (k : Fin 24) :
    s.holdsLive p k = true ↔ ∃ c, (s.body k).live = some c ∧ c.owner = p := by
  unfold State.holdsLive ownedBy
  cases (s.body k).live <;> simp

theorem placeStale_iff (s : State) (p : Arm) :
    s.placeStale p = true ↔ ∃ l b, (s.record p).last = some l ∧ l.verdict.place = .contained ∧
      l.binPart = some b ∧ ∀ k c, (s.body k).live = some c → c.owner = p → b.containedIn c.box = false := by
  unfold State.placeStale
  cases hl : (s.record p).last with
  | none => simp
  | some l =>
    cases hb : l.binPart with
    | none => simp [hb]
    | some b =>
      have hne : (!s.liveClaimContains p b) = true ↔
          ∀ k c, (s.body k).live = some c → c.owner = p → b.containedIn c.box = false := by
        rw [Bool.not_eq_true', Bool.eq_false_iff, Ne, liveClaimContains_iff]
        simp
      simp only [hb, Bool.and_eq_true, beq_iff_eq, hne, Option.some.injEq]
      constructor
      · rintro ⟨h1, h2⟩
        exact ⟨l, b, rfl, h1, hb, h2⟩
      · rintro ⟨l', b', rfl, h1, h2, h3⟩
        rw [hb] at h2
        cases h2
        exact ⟨h1, h3⟩

theorem placeLost_iff (s : State) (q : Arm) (ks : List (Fin 24)) :
    s.placeLost q ks = true ↔ (∃ k ∈ ks, s.holdsLive q k = true) ∧
      ∃ l b, (s.record q).last = some l ∧ l.verdict.place = .contained ∧ l.binPart = some b ∧
        ∀ k c, k ∉ ks → (s.body k).live = some c → c.owner = q → b.containedIn c.box = false := by
  unfold State.placeLost
  rw [Bool.and_eq_true, List.any_eq_true]
  refine and_congr_right fun _ => ?_
  cases hl : (s.record q).last with
  | none => simp
  | some l =>
    cases hb : l.binPart with
    | none => simp [hb]
    | some b =>
      simp only [hb, Bool.and_eq_true, beq_iff_eq, Bool.not_eq_true', List.any_eq_false, Option.some.injEq]
      constructor
      · rintro ⟨hp, h⟩
        refine ⟨l, b, rfl, hp, hb, fun k c hk hlive ho => ?_⟩
        have := h k (mem_allSlots k)
        simpa [hk, hlive, ho] using this
      · rintro ⟨l', b', rfl, hp, hb', h⟩
        rw [hb] at hb'
        cases hb'
        refine ⟨hp, fun k _ => ?_⟩
        cases hlive : (s.body k).live with
        | none => simp
        | some c =>
          by_cases hk : k ∈ ks
          · simp [hk]
          · by_cases ho : c.owner = q
            · simp [hk, ho, h k c hk hlive ho]
            · simp [ho]

theorem live_isSome_claim {b : SlotBody} {c : ClaimData} (h : b.live = some c) : b.claim = some c := by
  cases b <;> simp_all [SlotBody.live, SlotBody.claim]

/-- The records after one retirement (R118). -/
theorem record_retire (s : State) (k : Fin 24) (n : Option NoticeKind) (r : Bool)
    (hc : (s.body k).claim.isSome = true) (q : Arm) :
    (s.retire k n r).record q =
      if r = false ∧ s.placeLost q [k] = true then (s.record q).escaped else s.record q := by
  obtain ⟨c, hc⟩ := Option.isSome_iff_exists.mp hc
  have ht := told_fields s k c n
  have hrec : (s.told k c n).record q = s.record q := by unfold State.record; rw [ht.2.2.1]
  have hbody : ∀ j, (s.told k c n).body j = if j = k then .free else s.body j := by
    intro j
    rw [← body_freeSlot]
    exact State.body_congr ht.1 j
  rw [retire_eq s k n r hc]
  cases r with
  | true => simp [hrec]
  | false =>
    simp only [Bool.not_false, Bool.and_true, true_and]
    by_cases hl : (s.body k).live.isSome = true
    · obtain ⟨c', hl'⟩ := Option.isSome_iff_exists.mp hl
      have hcc : c' = c := by
        have := live_isSome_claim hl'
        rw [hc] at this
        exact (Option.some.inj this).symm
      subst hcc
      rw [if_pos hl, rejudgePlace_record, hrec]
      refine if_congr ?_ rfl rfl
      rw [placeLost_iff, placeStale_iff]
      constructor
      · rintro ⟨rfl, l, b, h1, h2, h3, h4⟩
        rw [hrec] at h1
        refine ⟨⟨k, by simp, (holdsLive_iff _ _ _).mpr ⟨c', hl', rfl⟩⟩, l, b, h1, h2, h3, fun j d hj hd ho => ?_⟩
        refine h4 j d ?_ ho
        rw [hbody, if_neg (by simpa using hj)]
        exact hd
      · rintro ⟨⟨j, hj, hj'⟩, l, b, h1, h2, h3, h4⟩
        rw [List.mem_singleton] at hj
        subst hj
        obtain ⟨d, hd, ho⟩ := (holdsLive_iff _ _ _).mp hj'
        rw [hl'] at hd
        cases hd
        refine ⟨ho.symm, l, b, by rw [ho, hrec]; exact h1, h2, h3, fun i e he hoe => ?_⟩
        rw [hbody] at he
        by_cases hi : i = j
        · rw [if_pos hi] at he; cases he
        · rw [if_neg hi] at he
          exact h4 i e (by simpa using hi) he (hoe.trans ho)
    · rw [if_neg hl, if_neg, hrec]
      rw [placeLost_iff]
      rintro ⟨⟨j, hj, hj'⟩, -⟩
      rw [List.mem_singleton] at hj
      subst hj
      obtain ⟨d, hd, -⟩ := (holdsLive_iff _ _ _).mp hj'
      rw [hd] at hl
      exact hl rfl

/-! ### Several retirements -/

theorem retireAll_cons (s : State) (k : Fin 24) (ks : List (Fin 24)) (n : Option NoticeKind) (r : Bool) :
    s.retireAll (k :: ks) n r = (s.retire k n r).retireAll ks n r := rfl

theorem retireAll_frame (ks : List (Fin 24)) (n : Option NoticeKind) (r : Bool) :
    ∀ s : State, TableFrame s (s.retireAll ks n r) := by
  induction ks with
  | nil => exact fun s => .refl s
  | cons k ks ih => exact fun s => (retire_frame s k n r).trans (ih _)

/-- The claims of a list stand in their slots and are named once. -/
def State.Retirable (s : State) (ks : List (Fin 24)) : Prop :=
  ks.Nodup ∧ ∀ k ∈ ks, (s.body k).claim.isSome = true

theorem State.Retirable.tail {s : State} {k : Fin 24} {ks : List (Fin 24)} (h : s.Retirable (k :: ks))
    (n : Option NoticeKind) (r : Bool) : (s.retire k n r).Retirable ks := by
  obtain ⟨hn, hc⟩ := h
  rw [List.nodup_cons] at hn
  refine ⟨hn.2, fun j hj => ?_⟩
  rw [body_retire s k j n r (hc k (by simp)), if_neg (by rintro rfl; exact hn.1 hj)]
  exact hc j (by simp [hj])

theorem slot_retireAll (ks : List (Fin 24)) (n : Option NoticeKind) (r : Bool) :
    ∀ s : State, s.Retirable ks → ∀ j, (s.retireAll ks n r).slot j =
      if j ∈ ks then { gen := (s.slot j).gen + 1, body := .free } else s.slot j := by
  induction ks with
  | nil => intro s _ j; rw [if_neg (by simp)]; rfl
  | cons k ks ih =>
    intro s h j
    have hk := h.2 k (by simp)
    have hnk := (List.nodup_cons.mp h.1).1
    rw [retireAll_cons, ih _ (h.tail n r), slot_retire s k j n r hk]
    by_cases hj : j = k
    · subst hj; simp [hnk]
    · simp [hj]

theorem body_retireAll (ks : List (Fin 24)) (n : Option NoticeKind) (r : Bool) (s : State) (h : s.Retirable ks)
    (j : Fin 24) : (s.retireAll ks n r).body j = if j ∈ ks then .free else s.body j := by
  unfold State.body
  rw [slot_retireAll ks n r s h]
  split <;> rfl

theorem waitList_retireAll (ks : List (Fin 24)) (n : Option NoticeKind) (r : Bool) :
    ∀ s : State, s.Retirable ks →
      (s.retireAll ks n r).waitList = s.waitList.filter fun j => !ks.contains j := by
  induction ks with
  | nil => intro s _; simp [State.retireAll]
  | cons k ks ih =>
    intro s h
    rw [retireAll_cons, ih _ (h.tail n r), waitList_retire s k n r (h.2 k (by simp)), List.filter_filter]
    refine List.filter_congr fun j _ => ?_
    rw [List.contains_cons, Bool.not_or]
    exact Bool.and_comm _ _

theorem sticky_retireAll (ks : List (Fin 24)) (n : Option NoticeKind) (r : Bool) :
    ∀ s : State, s.Retirable ks →
      (s.retireAll ks n r).events.sticky.quietOf = s.events.sticky.quietOf := by
  induction ks with
  | nil => intro s _; rfl
  | cons k ks ih =>
    intro s h
    obtain ⟨c, hc⟩ := Option.isSome_iff_exists.mp (h.2 k (by simp))
    rw [retireAll_cons, ih _ (h.tail n r)]
    exact (retire_slots s k n r hc).2.2

theorem retireAll_queued (ks : List (Fin 24)) (n : Option NoticeKind) (r : Bool) (q : Arm) :
    ∀ s : State, s.Retirable ks → Queued s (s.retireAll ks n r) q (retirementNotices s q ks n) := by
  induction ks with
  | nil =>
    intro s _
    have : retirementNotices s q [] n = [] := by unfold retirementNotices; cases n <;> rfl
    rw [this]
    exact .refl s q
  | cons k ks ih =>
    intro s h
    have hk := h.2 k (by simp)
    have hnk := (List.nodup_cons.mp h.1).1
    have h1 := (retire_queued s k n r hk q).trans (ih _ (h.tail n r))
    rw [retireAll_cons]
    convert h1 using 1
    unfold retirementNotices
    cases n with
    | none => rfl
    | some m =>
      simp only
      have hf : ks.filter ((s.retire k (some m) r).holdsClaim q) = ks.filter (s.holdsClaim q) := by
        refine List.filter_congr fun j hj => ?_
        unfold State.holdsClaim
        rw [body_retire s k j _ r hk, if_neg (by rintro rfl; exact hnk hj)]
      have hm : (ks.filter (s.holdsClaim q)).map (noticeOf (s.retire k (some m) r) m) =
          (ks.filter (s.holdsClaim q)).map (noticeOf s m) := by
        refine List.map_congr_left fun j hj => ?_
        have hj' := (List.mem_filter.mp hj).1
        unfold noticeOf
        rw [slot_retire s k j _ r hk, if_neg (by rintro rfl; exact hnk hj')]
      rw [hf, hm, ← List.map_append, ← List.filter_append]
      rfl

/-- The records after several retirements (R118). -/
theorem record_retireAll (ks : List (Fin 24)) (n : Option NoticeKind) (r : Bool) (q : Arm) :
    ∀ s : State, s.Retirable ks → (s.retireAll ks n r).record q =
      if r = false ∧ s.placeLost q ks = true then (s.record q).escaped else s.record q := by
  cases r with
  | true =>
    have : ∀ s : State, s.Retirable ks → (s.retireAll ks n true).record q = s.record q := by
      induction ks with
      | nil => intro s _; rfl
      | cons k ks ih =>
        intro s h
        rw [retireAll_cons, ih _ (h.tail n true), record_retire s k n true (h.2 k (by simp)), if_neg (by simp)]
    intro s h
    rw [this s h, if_neg (by simp)]
  | false =>
    induction ks with
    | nil =>
      intro s _
      rw [if_neg]
      · rfl
      · rw [placeLost_iff]; rintro ⟨-, ⟨k, hk, -⟩, -⟩; cases hk
    | cons k ks ih =>
      intro s h
      have hk := h.2 k (by simp)
      have hnk := (List.nodup_cons.mp h.1).1
      have hbody : ∀ j, (s.retire k n false).body j = if j = k then .free else s.body j :=
        fun j => body_retire s k j n false hk
      have hrec := record_retire s k n false hk q
      simp only [true_and] at hrec ih ⊢
      rw [retireAll_cons, ih _ (h.tail n false)]
      by_cases hlost : s.placeLost q [k] = true
      · rw [if_pos hlost] at hrec
        have h1 : ¬ (s.retire k n false).placeLost q ks = true := by
          rw [placeLost_iff]
          rintro ⟨-, l, b, hl, hp, -⟩
          rw [hrec] at hl
          unfold ReportRecord.escaped at hl
          obtain ⟨l0, -, rfl⟩ := Option.map_eq_some_iff.mp hl
          cases hp
        have h2 : s.placeLost q (k :: ks) = true := by
          rw [placeLost_iff] at hlost ⊢
          obtain ⟨⟨j, hj, hj'⟩, l, b, a1, a2, a3, a4⟩ := hlost
          rw [List.mem_singleton] at hj
          subst hj
          exact ⟨⟨j, by simp, hj'⟩, l, b, a1, a2, a3, fun i c hi => a4 i c (fun e => hi (by simp at e; simp [e]))⟩
        rw [if_neg h1, hrec, if_pos h2]
      · rw [if_neg hlost] at hrec
        rw [hrec]
        refine if_congr ?_ rfl rfl
        rw [placeLost_iff, placeLost_iff, hrec]
        constructor
        · rintro ⟨⟨j, hj, hj'⟩, l, b, a1, a2, a3, a4⟩
          obtain ⟨c, hcl, hco⟩ := (holdsLive_iff _ _ _).mp hj'
          rw [hbody, if_neg (by rintro rfl; exact hnk hj)] at hcl
          refine ⟨⟨j, by simp [hj], (holdsLive_iff _ _ _).mpr ⟨c, hcl, hco⟩⟩, l, b, a1, a2, a3, fun i c hi hc ho => ?_⟩
          simp only [List.mem_cons, not_or] at hi
          exact a4 i c hi.2 (by rw [hbody, if_neg hi.1]; exact hc) ho
        · rintro ⟨hex, l, b, a1, a2, a3, a4⟩
          have hsub : ∀ i c, i ∉ ks → ((s.retire k n false).body i).live = some c → c.owner = q →
              b.containedIn c.box = false := by
            intro i c hi hc ho
            rw [hbody] at hc
            by_cases hik : i = k
            · rw [if_pos hik] at hc; cases hc
            · rw [if_neg hik] at hc
              exact a4 i c (by simp [hik, hi]) hc ho
          by_cases hks : ∃ j ∈ ks, s.holdsLive q j = true
          · obtain ⟨j, hj, hj'⟩ := hks
            obtain ⟨c, hcl, hco⟩ := (holdsLive_iff _ _ _).mp hj'
            refine ⟨⟨j, hj, (holdsLive_iff _ _ _).mpr ⟨c, ?_, hco⟩⟩, l, b, a1, a2, a3, hsub⟩
            rw [hbody, if_neg (by rintro rfl; exact hnk hj)]
            exact hcl
          · exfalso
            apply hlost
            rw [placeLost_iff]
            obtain ⟨j, hj, hj'⟩ := hex
            rw [List.mem_cons] at hj
            rcases hj with rfl | hj
            · refine ⟨⟨j, by simp, hj'⟩, l, b, a1, a2, a3, fun i c hi hc ho => ?_⟩
              by_cases hik : i ∈ ks
              · exact absurd ⟨i, hik, (holdsLive_iff _ _ _).mpr ⟨c, hc, ho⟩⟩ hks
              · exact a4 i c (by simp at hi; simp [hi, hik]) hc ho
            · exact absurd ⟨j, hj, hj'⟩ hks

end Sys2Proof.Machine
end

