-- ==== Sys2Proof/Laws/ArmGuards.lean ====
section
/-! SUPPORT. What the guard controllers' shared operations come to: a stop event, the resume check, the kept INTRUSION,
and what follows a change of a source of group activity or of the e-stop. -/

namespace Sys2Proof.Machine

/-- A set of causes put in one after the other, cause by cause (R122). -/
theorem CauseSet.addAll_verdict (c : CauseSet) (v : Verdict) :
    c.addAll v.causes =
      { c with envelope := c.envelope || v.place == .escaped, intrusion := c.intrusion || v.intrusion
               overspeed := c.overspeed || v.overspeed } := by
  obtain ⟨p, i, o⟩ := v
  cases c
  cases p <;> cases i <;> cases o <;> simp [Verdict.causes, CauseSet.addAll, CauseSet.add]

/-- A cause put in a set, cause by cause (R122). -/
theorem CauseSet.add_eq (c : CauseSet) (cause : StopCause) :
    c.add cause =
      { envelope := c.envelope || cause == .envelope, intrusion := c.intrusion || cause == .intrusion
        overspeed := c.overspeed || cause == .overspeed, estop := c.estop || cause == .estop
        supervisor := c.supervisor || cause == .supervisor, link := c.link || cause == .link } := by
  cases c
  cases cause <;> simp [CauseSet.add]

/-- A verdict carries no cause just where no part of it fails (R127). -/
theorem Verdict.causes_isEmpty (v : Verdict) :
    v.causes.isEmpty = true ↔ v.place ≠ .escaped ∧ v.intrusion = false ∧ v.overspeed = false := by
  obtain ⟨p, i, o⟩ := v
  cases p <;> cases i <;> cases o <;> simp [Verdict.causes]

/-! ### Stop events -/

/-- A stop event (R126, R128 to R131): the guard controller record of an arm in RUN or STOPPED takes the cause. -/
theorem guard_stopArm (s : State) (p q : Arm) (c : StopCause) :
    (s.stopArm p c).guard q =
      if q = p ∧ (s.armState p = .run ∨ s.armState p = .stopped) then (s.guard p).stoppedBy c else s.guard q := by
  unfold State.stopArm
  cases h : s.armState p
  · simp
  · simp only [State.enterStopped, State.flagStop, State.updSticky_guard, State.clearFresh_guard, State.guard_setGuard,
      CauseSet.addAll, List.foldl_cons, List.foldl_nil, CauseSet.add_eq, Guard.stoppedBy, true_or, and_true]
  · have hs : (s.guard p).state = .stopped := h
    simp only [State.stopEvent, State.guard_setGuard, CauseSet.add_eq, Guard.stoppedBy, hs, or_true, and_true]
  · simp

/-- A stop event clears the fresh flag of an arm in RUN, and changes nothing else of a report record (R117). -/
theorem record_stopArm (s : State) (p q : Arm) (c : StopCause) :
    (s.stopArm p c).record q =
      { s.record q with fresh := (s.record q).fresh && !decide (q = p ∧ s.armState p = .run) } := by
  unfold State.stopArm
  cases h : s.armState p
  · simp
  · simp only [State.enterStopped, State.flagStop, State.updSticky_record, State.clearFresh, State.record_setRecord,
      State.setGuard_record]
    by_cases hq : q = p
    · subst hq; simp
    · simp [hq]
  · simp [State.stopEvent]
  · simp

/-- A stop event sets STOP_P of an arm in RUN, and no other event state (R126). -/
theorem events_stopArm (s : State) (p : Arm) (c : StopCause) :
    (s.stopArm p c).events =
      { s.events with
        sticky :=
          { s.events.sticky with
            stop := s.events.sticky.stop.set p (s.events.sticky.stop.get p || decide (s.armState p = .run)) } } := by
  unfold State.stopArm
  cases h : s.armState p <;>
    simp [State.enterStopped, State.flagStop, State.stopEvent, State.updSticky, State.clearFresh, State.setGuard,
      State.setRecord]

/-- A stop event changes guard controller records, report records and event flags alone. -/
theorem frame_stopArm (s : State) (p : Arm) (c : StopCause) :
    { (s.stopArm p c) with guards := s.guards, records := s.records, events := s.events } = s := by
  unfold State.stopArm
  cases s.armState p <;> rfl

/-! ### The resume check -/

/-- The five conditions of the resume check (R139). -/
theorem resumeFits_iff (s : State) (p : Arm) : s.resumeFits p = true ↔ MayResume s p := by
  unfold State.resumeFits MayResume
  cases (s.record p).last with
  | none => simp
  | some l => simp [and_assoc]

/-- The resume check (R139, R140): a STOPPED arm whose handshake is complete resumes where the conditions hold. -/
theorem guard_resumeCheck (s : State) (p : Arm) :
    (s.armState p = .stopped ∧ (s.guard p).resumeRequested = true ∧ (s.guard p).stopAcknowledged = true ∧
        MayResume s p → (s.resumeCheck p).guard p = (s.guard p).resumed) ∧
    (¬ (s.armState p = .stopped ∧ (s.guard p).resumeRequested = true ∧ (s.guard p).stopAcknowledged = true ∧
        MayResume s p) → s.resumeCheck p = s) := by
  unfold State.resumeCheck State.armState
  rw [← resumeFits_iff]
  refine ⟨fun h => ?_, fun h => ?_⟩
  · simp only []
    rw [if_pos h]
    simp only [State.completeResume, State.guard_setGuard, if_true, Guard.resumed]
  · simp only []
    rw [if_neg h]

/-- The resume check of arm P leaves the other arm's record, and everything that is no guard controller record. -/
theorem frame_resumeCheck (s : State) (p : Arm) :
    (s.resumeCheck p).guard p.other = s.guard p.other ∧ { (s.resumeCheck p) with guards := s.guards } = s := by
  unfold State.resumeCheck
  simp only []
  split
  · exact ⟨by simp [State.completeResume, State.guard_setGuard], rfl⟩
  · exact ⟨rfl, rfl⟩

/-! ### The kept INTRUSION -/

/-- The kept INTRUSION is brought up to date, and nothing else changes (R118). -/
theorem record_keepIntrusion (s : State) (p q : Arm) :
    (s.keepIntrusion p).record q =
      if q = p then
        { s.record p with last := (s.record p).last.map fun l =>
            { l with verdict := { l.verdict with intrusion := s.partIntrudes l.binPart } } }
      else s.record q := by
  unfold State.keepIntrusion
  simp only []
  cases h : (s.record p).last with
  | none =>
    by_cases hq : q = p
    · subst hq; simp
      cases hr : s.record q; rw [hr] at h; simp only at h; rw [h]
    · simp [hq]
  | some l => simp [State.record_setRecord]

theorem frame_keepIntrusion (s : State) (p : Arm) : { (s.keepIntrusion p) with records := s.records } = s := by
  unfold State.keepIntrusion
  simp only []
  split <;> rfl

/-! ### Changes of a source -/

/-- A group whose activity is as it was has no event (R156). -/
theorem groupEvent_same {s : State} {before : Bool} {g : Group} (h : before = s.groupActive g) :
    s.groupEvent before g = s := by
  unfold State.groupEvent; rw [if_pos h]

/-- In CONFIG no group event reaches anything (R162). -/
theorem groupEvent_config {s : State} (h : s.mode = .config) (before : Bool) (g : Group) :
    s.groupEvent before g = s := by
  unfold State.groupEvent State.groupActivated State.groupDeactivated
  have hr : ¬ s.mode = .run := by rw [h]; decide
  rw [if_neg hr, if_neg hr]
  split
  · rfl
  · split <;> rfl

theorem groupEvent_rise {s : State} {g : Group} (h : s.groupActive g = true) :
    s.groupEvent false g = s.groupActivated g := by
  unfold State.groupEvent; rw [if_neg (by rw [h]; decide), if_neg (by decide)]

theorem groupEvent_fall {s : State} {g : Group} (h : s.groupActive g = false) :
    s.groupEvent true g = s.groupDeactivated := by
  unfold State.groupEvent; rw [if_neg (by rw [h]; decide), if_pos rfl]

/-- An e-stop that is as it was has no event (R168). -/
theorem estopEvent_same {s : State} {before : Bool} (h : before = s.estopActive) : s.estopEvent before = s := by
  unfold State.estopEvent; rw [if_pos h]

theorem estopEvent_rise {s : State} (h : s.estopActive = true) :
    s.estopEvent false = (s.stopArm .a .estop).stopArm .b .estop := by
  unfold State.estopEvent; rw [if_neg (by rw [h]; decide), if_neg (by decide)]

theorem estopEvent_fall {s : State} (h : s.estopActive = false) :
    s.estopEvent true = (s.resumeCheck .a).resumeCheck .b := by
  unfold State.estopEvent; rw [if_neg (by rw [h]; decide), if_pos rfl]

/-- A change of a source that leaves every activity and the e-stop as they were is that change alone. -/
theorem afterSources_same {s : State} {change : State → State}
    (hg : ∀ g, (change s).groupActive g = s.groupActive g) (he : (change s).estopActive = s.estopActive) :
    s.afterSources change = change s := by
  unfold State.afterSources
  simp only [groupEvent_same (hg .g1).symm, groupEvent_same (hg .g2).symm, groupEvent_same (hg .g3).symm,
    estopEvent_same he.symm]

/-- A change of the e-stop alone. -/
theorem afterSources_estop {s : State} {change : State → State}
    (hg : ∀ g, (change s).groupActive g = s.groupActive g) :
    s.afterSources change = (change s).estopEvent s.estopActive := by
  unfold State.afterSources
  simp only [groupEvent_same (hg .g1).symm, groupEvent_same (hg .g2).symm, groupEvent_same (hg .g3).symm]

/-- In CONFIG a change of a source reaches at most the arms, by the e-stop (R162, R168). -/
theorem afterSources_config {s : State} {change : State → State} (h : (change s).mode = .config) :
    s.afterSources change = (change s).estopEvent s.estopActive := by
  unfold State.afterSources
  simp only [groupEvent_config h]

end Sys2Proof.Machine
end

