-- ==== Sys2Proof/Laws/KeepOutMap.lean ====
section
/-! SUPPORT. The keep-out map's one write and its reads: the canonical form is kept, a cell reads what was last written,
and a fill writes the cells that its box touches. -/

namespace Sys2Proof.Machine

theorem cellsRiseFrom_mono {low low' : Nat} (h : low' ≤ low) :
    ∀ m, cellsRiseFrom low m = true → cellsRiseFrom low' m = true
  | [], _ => rfl
  | (j, g) :: rest, hm => by
    simp only [cellsRiseFrom, Bool.and_eq_true, decide_eq_true_eq] at hm ⊢
    exact ⟨⟨h.trans hm.1.1, hm.1.2⟩, hm.2⟩

theorem writeCell_rises (i : Nat) (code : Option Group) (hi : i < Config.numCells) :
    ∀ (low : Nat) (m : List (Nat × Group)), low ≤ i → cellsRiseFrom low m = true →
      cellsRiseFrom low (writeCell i code m) = true
  | low, [], hl, _ => by cases code <;> simp [writeCell, cellsRiseFrom, hl, hi]
  | low, (j, h) :: rest, hl, hm => by
    simp only [cellsRiseFrom, Bool.and_eq_true, decide_eq_true_eq] at hm
    unfold writeCell
    split
    · next hji =>
      simp only [cellsRiseFrom, Bool.and_eq_true, decide_eq_true_eq]
      exact ⟨hm.1, writeCell_rises i code hi (j + 1) rest hji hm.2⟩
    · next hji =>
      cases code with
      | none =>
        simp only
        split
        · exact cellsRiseFrom_mono (by omega) _ hm.2
        · simp only [cellsRiseFrom, Bool.and_eq_true, decide_eq_true_eq]; exact hm
      | some g =>
        simp only
        split
        · next he =>
          simp only [cellsRiseFrom, Bool.and_eq_true, decide_eq_true_eq]
          exact ⟨⟨hl, hi⟩, by rw [← he]; exact hm.2⟩
        · next he =>
          simp only [cellsRiseFrom, Bool.and_eq_true, decide_eq_true_eq]
          exact ⟨⟨hl, hi⟩, ⟨by omega, hm.1.2⟩, hm.2⟩

/-- The write keeps the canonical form. -/
theorem writeCell_wf (i : Nat) (code : Option Group) (m : List (Nat × Group)) (hi : i < Config.numCells)
    (hm : cellsRiseFrom 0 m = true) : cellsRiseFrom 0 (writeCell i code m) = true :=
  writeCell_rises i code hi 0 m (Nat.zero_le i) hm

/-- A fill keeps the canonical form. -/
theorem fillCells_wf (code : Option Group) (m : List (Nat × Group)) (hm : cellsRiseFrom 0 m = true) :
    ∀ touched : List Nat, (∀ i ∈ touched, i < Config.numCells) → cellsRiseFrom 0 (fillCells code touched m) = true
  | [], _ => hm
  | i :: rest, h => writeCell_wf i code _ (h i (by simp)) (fillCells_wf code m hm rest fun j hj => h j (by simp [hj]))

/-- The map that opens every cell has the canonical form, and so has the map at reset. -/
theorem clear_wf : cellsRiseFrom 0 [] = true := rfl

theorem reset_map_wf : State.reset.keepOut.wf = true := rfl

theorem cellCode_below {low : Nat} : ∀ (m : List (Nat × Group)) {i : Nat}, i < low → cellsRiseFrom low m = true →
    cellCode m i = none
  | [], _, _, _ => rfl
  | (j, g) :: rest, i, hi, hm => by
    simp only [cellsRiseFrom, Bool.and_eq_true, decide_eq_true_eq] at hm
    unfold cellCode
    rw [if_neg (by omega)]
    exact cellCode_below rest (by omega) hm.2

/-- A cell reads what was written last, and a write leaves every other cell alone. -/
theorem cellCode_writeCell (i j : Nat) (code : Option Group) :
    ∀ (low : Nat) (m : List (Nat × Group)), cellsRiseFrom low m = true →
      cellCode (writeCell i code m) j = if j = i then code else cellCode m j
  | _, [], _ => by
    cases code <;> by_cases h : j = i <;> simp [writeCell, cellCode, h, eq_comm]
    · intro h'; exact absurd h'.symm h
  | low, (k, h) :: rest, hm => by
    simp only [cellsRiseFrom, Bool.and_eq_true, decide_eq_true_eq] at hm
    have ih := cellCode_writeCell i j code (k + 1) rest hm.2
    unfold writeCell
    split
    · next hki =>
      simp only [cellCode, ih]
      by_cases hj : k = j
      · subst hj; simp [Nat.ne_of_lt hki]
      · simp [hj]
    · next hki =>
      have hbelow : j = i → k ≠ i → cellCode rest j = none := fun hj hne =>
        cellCode_below rest (by omega) hm.2
      cases code with
      | none =>
        simp only
        split
        · next he =>
          subst he
          simp only [cellCode]
          by_cases hj : j = k
          · subst hj
            simp [cellCode_below rest (Nat.lt_succ_self j) hm.2]
          · simp [hj, Ne.symm hj]
        · next he =>
          simp only [cellCode]
          by_cases hj : j = i
          · have := hbelow hj he
            subst hj
            simp [he, this]
          · simp [hj]
      | some g =>
        simp only
        split
        · next he =>
          subst he
          simp only [cellCode]
          by_cases hj : j = k
          · simp [hj]
          · simp [hj, Ne.symm hj]
        · next he =>
          simp only [cellCode]
          by_cases hj : j = i
          · simp [hj]
          · simp [hj, Ne.symm hj]

/-- A fill sets the cells of its list to the code, and leaves every other cell alone (R150). -/
theorem cellCode_fillCells (code : Option Group) (m : List (Nat × Group)) (hm : cellsRiseFrom 0 m = true) (j : Nat) :
    ∀ touched : List Nat, (∀ i ∈ touched, i < Config.numCells) →
      cellCode (fillCells code touched m) j = if j ∈ touched then code else cellCode m j
  | [], _ => by simp [fillCells]
  | i :: rest, h => by
    have hr : ∀ k ∈ rest, k < Config.numCells := fun k hk => h k (by simp [hk])
    show cellCode (writeCell i code (fillCells code rest m)) j = _
    rw [cellCode_writeCell i j code 0 _ (fillCells_wf code m hm rest hr), cellCode_fillCells code m hm j rest hr]
    by_cases hj : j = i <;> simp [hj]

/-! ### Touched cells -/

theorem mem_indexRange (i : Nat) (lo hi : Int) (edge : Nat) :
    i ∈ indexRange lo hi edge ↔ inIndexRange i lo hi edge = true := by
  unfold indexRange inIndexRange
  rw [List.mem_range'_1]
  simp only [Bool.and_eq_true, decide_eq_true_eq]
  omega

theorem cellIndex_split (n ix iy iz : Nat) (hx : ix < n) (hy : iy < n) :
    (ix + n * (iy + n * iz)) % n = ix ∧ (ix + n * (iy + n * iz)) / n % n = iy ∧
      (ix + n * (iy + n * iz)) / (n * n) = iz := by
  have hn : 0 < n := by omega
  have h1 : (ix + n * (iy + n * iz)) / n = iy + n * iz := by
    rw [Nat.add_mul_div_left _ _ hn, Nat.div_eq_of_lt hx, Nat.zero_add]
  refine ⟨by rw [Nat.add_mul_mod_self_left, Nat.mod_eq_of_lt hx], ?_, ?_⟩
  · rw [h1, Nat.add_mul_mod_self_left, Nat.mod_eq_of_lt hy]
  · rw [← Nat.div_div_eq_div_mul, h1, Nat.add_mul_div_left _ _ hn, Nat.div_eq_of_lt hy, Nat.zero_add]

theorem cellIndex_join (n i : Nat) : i % n + n * (i / n % n + n * (i / (n * n))) = i := by
  rw [← Nat.div_div_eq_div_mul, Nat.mod_add_div, Nat.mod_add_div]

theorem index_lt (g : Geometry) {b : Box} (hb : b.containedIn binVolume = true) :
    (∀ i, inIndexRange i b.xlo b.xhi g.edgeXY = true → i < g.nxy) ∧
    (∀ i, inIndexRange i b.ylo b.yhi g.edgeXY = true → i < g.nxy) ∧
    ∀ i, inIndexRange i b.zlo b.zhi g.edgeZ = true → i < g.nz := by
  unfold Box.containedIn binVolume at hb
  simp only [Bool.and_eq_true, decide_eq_true_eq, Config.binMaxXY, Config.binMaxZ] at hb
  obtain ⟨⟨⟨⟨⟨h1, h2⟩, h3⟩, h4⟩, h5⟩, h6⟩ := hb
  have hx : b.xhi.toNat ≤ 8191 := by omega
  have hy : b.yhi.toNat ≤ 8191 := by omega
  have hz : b.zhi.toNat ≤ 2047 := by omega
  unfold inIndexRange
  simp only [Bool.and_eq_true, decide_eq_true_eq]
  cases g <;>
    exact ⟨fun i hi => by simp only [Geometry.nxy, Geometry.edgeXY] at *; omega,
      fun i hi => by simp only [Geometry.nxy, Geometry.edgeXY] at *; omega,
      fun i hi => by simp only [Geometry.nz, Geometry.edgeZ] at *; omega⟩

/-- The cells of R147's three ranges are the cells that the box touches. -/
theorem mem_touchedCells (g : Geometry) {b : Box} (hb : b.containedIn binVolume = true) (i : Nat) :
    i ∈ touchedCells g b ↔ touchesCell g b i = true := by
  have hlt := index_lt g hb
  unfold touchedCells touchesCell
  simp only [List.mem_flatMap, List.mem_map, mem_indexRange, Bool.and_eq_true]
  constructor
  · rintro ⟨iz, hz, iy, hy, ix, hx, rfl⟩
    have h := cellIndex_split g.nxy ix iy iz (hlt.1 ix hx) (hlt.2.1 iy hy)
    unfold cellIndex
    rw [h.1, h.2.1, h.2.2]
    exact ⟨⟨hx, hy⟩, hz⟩
  · rintro ⟨⟨hx, hy⟩, hz⟩
    exact ⟨_, hz, _, hy, _, hx, cellIndex_join g.nxy i⟩

theorem nodup_indexRange (lo hi : Int) (edge : Nat) : (indexRange lo hi edge).Nodup := List.nodup_range'

theorem touchedCells_lt (g : Geometry) {b : Box} (hb : b.containedIn binVolume = true) :
    ∀ i ∈ touchedCells g b, i < Config.numCells := by
  have hlt := index_lt g hb
  intro i hi
  unfold touchedCells at hi
  simp only [List.mem_flatMap, List.mem_map, mem_indexRange] at hi
  obtain ⟨iz, hz, iy, hy, ix, hx, rfl⟩ := hi
  have h1 := hlt.1 ix hx
  have h2 := hlt.2.1 iy hy
  have h3 := hlt.2.2 iz hz
  unfold cellIndex
  cases g <;> simp only [Geometry.nxy, Geometry.nz, Config.numCells] at * <;> omega

/-- In a canonical map the code of a cell is its entry, whose index is a cell's (R145). -/
theorem cellCode_eq_some_iff : ∀ (cells : List (Nat × Group)) (low : Nat), cellsRiseFrom low cells = true →
    ∀ i g, (cellCode cells i = some g ↔ (i, g) ∈ cells) ∧ ((i, g) ∈ cells → low ≤ i ∧ i < 4096) := by
  intro cells
  induction cells with
  | nil => intro low h i g; simp [cellCode]
  | cons c rest ih =>
    obtain ⟨j, k⟩ := c
    intro low h i g
    simp only [cellsRiseFrom, Bool.and_eq_true, decide_eq_true_eq] at h
    obtain ⟨⟨h1, h2⟩, h3⟩ := h
    have hr := ih (j + 1) h3 i g
    simp only [cellCode, List.mem_cons, Prod.mk.injEq]
    refine ⟨?_, ?_⟩
    · by_cases hj : j = i
      · subst hj
        rw [if_pos rfl]
        refine ⟨fun e => by cases e; exact .inl ⟨rfl, rfl⟩, ?_⟩
        rintro (⟨-, rfl⟩ | hm)
        · rfl
        · have := hr.2 hm; omega
      · rw [if_neg hj, hr.1]
        exact ⟨.inr, fun hm => hm.elim (fun e => absurd e.1.symm hj) id⟩
    · rintro (⟨rfl, rfl⟩ | hm)
      · exact ⟨h1, h2⟩
      · have := hr.2 hm; omega

end Sys2Proof.Machine
end

