-- ==== Sys2Proof/Laws/Links.lean ====
section
/-! SUPPORT. What taking a frame or an event comes to: the gates in front of an owner, the replies, and the handle
checks. -/

namespace Sys2Proof.Machine

theorem takeArmFrame_next {s : State} (h : s.inReset = false) (p : Arm) (kind : Byte) (owner : State → Answer) :
    takeArmFrame p kind owner s = .next ((owner s).state.replyArm p kind (owner s).result (owner s).data) := by
  unfold takeArmFrame; rw [h]; rfl

theorem takeArmFrame_held {s : State} (h : s.inReset = true) (p : Arm) (kind : Byte) (owner : State → Answer) :
    takeArmFrame p kind owner s = .next s := by
  unfold takeArmFrame; rw [h]; rfl

theorem takeCellFrame_next {s : State} (h : s.inReset = false) (kind : Byte) (owner : State → CellAnswer) :
    takeCellFrame kind owner s =
      .next ((owner s).state.replyCell kind (owner s).result (owner s).clamped (owner s).data) := by
  unfold takeCellFrame; rw [h]; rfl

theorem takeCellFrame_held {s : State} (h : s.inReset = true) (kind : Byte) (owner : State → CellAnswer) :
    takeCellFrame kind owner s = .next s := by
  unfold takeCellFrame; rw [h]; rfl

theorem takeEvent_next {s : State} (h : s.inReset = false) (effect : State → State) :
    takeEvent effect s = .next (effect s) := by
  unfold takeEvent; rw [h]; rfl

theorem takeEvent_held {s : State} (h : s.inReset = true) (effect : State → State) : takeEvent effect s = .next s := by
  unfold takeEvent; rw [h]; rfl

theorem gateRequest_config {s : State} (h : s.mode = .config) (p : Arm) (owner : State → Answer) :
    gateRequest p owner s = refuse s .refusedMode := by
  unfold gateRequest; rw [if_pos h]

theorem gateRequest_lost {s : State} (h : s.mode = .run) (p : Arm) (hl : s.armState p = .lost)
    (owner : State → Answer) : gateRequest p owner s = refuse s .refusedState := by
  unfold gateRequest; rw [if_neg (by rw [h]; simp), if_pos hl]

theorem gateRequest_pass {s : State} (h : s.mode = .run) (p : Arm) (hl : s.armState p ≠ .lost)
    (owner : State → Answer) : gateRequest p owner s = owner s := by
  unfold gateRequest; rw [if_neg (by rw [h]; simp), if_neg hl]

theorem configOnly_pass {s : State} (h : s.mode = .config) (owner : State → CellAnswer) :
    configOnly owner s = owner s := by
  unfold configOnly; rw [if_pos h]

theorem configOnly_run {s : State} (h : s.mode = .run) (owner : State → CellAnswer) :
    configOnly owner s = refuseCell s .refusedMode := by
  unfold configOnly; rw [if_neg (by rw [h]; simp)]

/-- The reply slot and the queue after an arm reply, and the other link as it was (R177, R181). -/
theorem link_replyArm (s : State) (p q : Arm) (kind : Byte) (r : Result) (d : ArmData) :
    (s.replyArm p kind r d).link q =
      if q = p then
        { s.link p with
          reply := { echo := kind, status := s.armStatus p, result := r, notice := (s.link p).queue.head?, data := d }
          queue := (s.link p).queue.tail }
      else s.link q := PerArm.get_set _ _ _ _

/-- A handle names slot k exactly where the slot byte is k, the slot is not FREE and the gen matches (R39). -/
theorem findHandle_eq_some (s : State) (slot gen : Byte) (k : Fin 24) :
    s.findHandle slot gen = some k ↔
      slot.toNat = k.val ∧ (s.body k).claim.isSome = true ∧ (s.slot k).gen.val = gen.toNat := by
  unfold State.findHandle State.isFree
  constructor
  · intro h
    split at h
    · next hlt =>
      simp only at h
      split at h
      · next hc =>
        rw [Option.some.injEq] at h
        subst h
        simp only [Bool.and_eq_true, decide_eq_true_eq, Bool.not_eq_true', Option.isNone_eq_false_iff] at hc
        exact ⟨rfl, hc.1, hc.2⟩
      · cases h
    · cases h
  · rintro ⟨h1, h2, h3⟩
    have hlt : slot.toNat < 24 := by rw [h1]; exact k.isLt
    have hk : (⟨slot.toNat, hlt⟩ : Fin 24) = k := Fin.ext h1
    rw [dif_pos hlt]
    simp only [hk]
    rw [if_pos]
    simp only [Bool.and_eq_true, decide_eq_true_eq, Bool.not_eq_true', Option.isNone_eq_false_iff]
    exact ⟨h2, h3⟩

theorem armOf_eq_some (b : Byte) (p : Arm) : armOf b = some p ↔ b.toNat = armCode p := by
  unfold armOf
  split
  · next h => rw [h]; cases p <;> decide
  · next h => rw [h]; cases p <;> decide
  · next h0 h1 =>
    cases p
    · exact ⟨nofun, fun h => (h0 h).elim⟩
    · exact ⟨nofun, fun h => (h1 h).elim⟩

end Sys2Proof.Machine
end

