-- ==== Sys2Proof/Laws/PerInstr.lean ====
section
/-! SUPPORT. One lemma for each command: the content that the frame of the command carries leaves room, within its
link's frame size, for the CRC in the last byte (R175, R176). A command that no frame carries has no content. -/

namespace Sys2Proof.Laws.ContentFits

/-- A command's frame content is shorter than a frame of its link. -/
def Statement (i : Instr) : Prop :=
  ∀ (link : Link) (content : List Byte), frameContent i = some (link, content) → content.length < link.frameSize

/-- What each lemma below comes to: the content's own length decides. -/
theorem of_eq {i : Instr} {link : Link} {content : List Byte} (h : frameContent i = some (link, content))
    (hl : decide (content.length < link.frameSize) = true) : Statement i := by
  intro link' content' h'
  rw [h] at h'
  cases h'
  exact of_decide_eq_true hl

theorem of_none {i : Instr} (h : frameContent i = none) : Statement i := by
  intro link content h'
  rw [h] at h'
  cases h'

theorem nop (arm : Arm) : Statement (.nop arm) := of_eq rfl rfl

theorem attach (arm : Arm) : Statement (.attach arm) := of_eq rfl rfl

theorem detach (arm : Arm) : Statement (.detach arm) := of_eq rfl rfl

theorem report (arm : Arm) (arg : Byte) (xa ya za v : Half) : Statement (.report arm arg xa ya za v) := of_eq rfl rfl

theorem claim (arm : Arm) (cls : Byte) (box : RawBox) : Statement (.claim arm cls box) := of_eq rfl rfl

theorem release (arm : Arm) (slot gen : Byte) : Statement (.release arm slot gen) := of_eq rfl rfl

theorem cancel (arm : Arm) (slot gen : Byte) : Statement (.cancel arm slot gen) := of_eq rfl rfl

theorem query (arm : Arm) (slot gen : Byte) : Statement (.query arm slot gen) := of_eq rfl rfl

theorem list (arm : Arm) (start : Byte) : Statement (.list arm start) := of_eq rfl rfl

theorem ackstop (arm : Arm) : Statement (.ackstop arm) := of_eq rfl rfl

theorem unknownKind (link : Link) (kind : Byte) : Statement (.unknownKind link kind) :=
  of_eq rfl (by cases link <;> rfl)

theorem frameFailed (link : Link) : Statement (.frameFailed link) :=
  of_eq rfl (by cases link <;> rfl)

theorem cellNop : Statement (.cellNop) := of_eq rfl rfl

theorem ident : Statement (.ident) := of_eq rfl rfl

theorem setModeRun (target : Byte) : Statement (.setModeRun target) := of_eq rfl rfl

theorem setModeConfig : Statement (.setModeConfig) := of_eq rfl rfl

theorem loadCal (arm : Byte) (c s ox oy oz rxy rz : Half) : Statement (.loadCal arm c s ox oy oz rxy rz) := of_eq rfl rfl

theorem loadProfile (arm profile : Byte) (decel react cap : Half) :
    Statement (.loadProfile arm profile decel react cap) := of_eq rfl rfl

theorem loadTiming (code entry wait : Byte) (clearance : Half) (quotaA quotaB : Byte) :
    Statement (.loadTiming code entry wait clearance quotaA quotaB) := of_eq rfl rfl

theorem setLine (line func polarity debounce : Byte) : Statement (.setLine line func polarity debounce) := of_eq rfl rfl

theorem setGeometry (geometry : Byte) : Statement (.setGeometry geometry) := of_eq rfl rfl

theorem mapFill (code : Byte) (box : RawBox) : Statement (.mapFill code box) := of_eq rfl rfl

theorem mapClear : Statement (.mapClear) := of_eq rfl rfl

theorem mapCursor (index : Half) : Statement (.mapCursor index) := of_eq rfl rfl

theorem mapRead : Statement (.mapRead) := of_eq rfl rfl

theorem groupSet (group value : Byte) : Statement (.groupSet group value) := of_eq rfl rfl

theorem forceProfile (arm value : Byte) : Statement (.forceProfile arm value) := of_eq rfl rfl

theorem stop (arm : Byte) : Statement (.stop arm) := of_eq rfl rfl

theorem resume (arm : Byte) : Statement (.resume arm) := of_eq rfl rfl

theorem purgeArm (arm : Byte) : Statement (.purgeArm arm) := of_eq rfl rfl

theorem purgeClaim (slot gen : Byte) : Statement (.purgeClaim slot gen) := of_eq rfl rfl

theorem setCursor (slot : Byte) : Statement (.setCursor slot) := of_eq rfl rfl

theorem readClaim : Statement (.readClaim) := of_eq rfl rfl

theorem readArm (arm : Byte) : Statement (.readArm arm) := of_eq rfl rfl

theorem setOut (lines values : Byte) : Statement (.setOut lines values) := of_eq rfl rfl

theorem toggleOut (lines : Byte) : Statement (.toggleOut lines) := of_eq rfl rfl

theorem readLines : Statement (.readLines) := of_eq rfl rfl

theorem readEvents : Statement (.readEvents) := of_eq rfl rfl

theorem clearEvents (flags : Half) : Statement (.clearEvents flags) := of_eq rfl rfl

theorem setMask (mask : Half) : Statement (.setMask mask) := of_eq rfl rfl

theorem readCounters : Statement (.readCounters) := of_eq rfl rfl

theorem clearCounters (set : Byte) : Statement (.clearCounters set) := of_eq rfl rfl

theorem setAccEnable (enables : Byte) : Statement (.setAccEnable enables) := of_eq rfl rfl

theorem lapse (slot : Fin 24) : Statement (.lapse slot) := of_none rfl

theorem waitExpiry (slot : Fin 24) : Statement (.waitExpiry slot) := of_none rfl

theorem reportTimerExpiry (arm : Arm) : Statement (.reportTimerExpiry arm) := of_none rfl

theorem rawLevelChange (line : Fin 8) (level : Level) : Statement (.rawLevelChange line level) := of_none rfl

theorem filterTimerExpiry (line : Fin 8) : Statement (.filterTimerExpiry line) := of_none rfl

theorem accumulatorStep : Statement (.accumulatorStep) := of_none rfl

theorem resetnAssert : Statement (.resetnAssert) := of_none rfl

theorem resetnRelease : Statement (.resetnRelease) := of_none rfl

theorem powerOnReset : Statement (.powerOnReset) := of_none rfl

theorem supplyBelowPowerOnThreshold : Statement (.supplyBelowPowerOnThreshold) := of_none rfl

end Sys2Proof.Laws.ContentFits
end

