-- ==== Sys2Proof/Laws/Rescreen.lean ====
section
/-! SUPPORT. What the re-screen walk can do, said once, and with it the whole event of a retirement
(`retireAndRescreen_event`). -/

namespace Sys2Proof.Machine

/-! ### Screening -/

/-- The conflict test is symmetric (R6). -/
theorem conflicts_comm (n : Nat) (a b : Box) : a.conflicts n b = b.conflicts n a := by
  unfold Box.conflicts
  rw [Bool.eq_iff_iff]
  simp only [Bool.and_eq_true]
  tauto

theorem blocksCandidate_iff (s : State) (p : Arm) (box : Box) (ahead : Fin 24 → Bool) (k : Fin 24) :
    s.blocksCandidate p box ahead k = true ↔
      (∃ c, (s.body k).live = some c ∧ c.owner = p.other ∧ c.box.conflicts s.timing.clearance box = true) ∨
      ∃ c, (s.body k).waitingClaim = some c ∧ c.owner = p.other ∧
        c.box.conflicts s.timing.clearance box = true ∧ ahead k = true := by
  unfold State.blocksCandidate
  cases s.body k <;> simp [SlotBody.live, SlotBody.waitingClaim, and_assoc]

theorem mem_screen_slots (s : State) (p : Arm) (box : Box) (ahead : Fin 24 → Bool) (k : Fin 24) :
    k ∈ (s.screen p box ahead).slots ↔ s.blocksCandidate p box ahead k = true := by
  unfold State.screen
  simp

theorem screen_isEmpty_iff (s : State) (p : Arm) (box : Box) (ahead : Fin 24 → Bool) :
    (s.screen p box ahead).isEmpty = true ↔
      (∀ k, s.blocksCandidate p box ahead k = false) ∧ s.activeGroupsTouched box = [] := by
  unfold Blockers.isEmpty State.screen
  simp [List.filter_eq_nil_iff]

/-- Screenings agree where they see the same blockers and the same groups. -/
theorem screen_eq {s t : State} {p : Arm} {box : Box} {f g : Fin 24 → Bool}
    (h : ∀ k, t.blocksCandidate p box f k = s.blocksCandidate p box g k)
    (hg : t.activeGroupsTouched box = s.activeGroupsTouched box) : t.screen p box f = s.screen p box g := by
  unfold State.screen
  rw [hg, funext h]

/-- Only waits ask whether they stand ahead. -/
theorem blocksCandidate_ahead_congr {s : State} {p : Arm} {box : Box} {f g : Fin 24 → Bool} {k : Fin 24}
    (h : (s.body k).waitingClaim.isSome = true → f k = g k) :
    s.blocksCandidate p box f k = s.blocksCandidate p box g k := by
  unfold State.blocksCandidate
  cases hb : s.body k with
  | waiting c left bl => rw [h (by rw [hb]; rfl)]
  | _ => rfl

theorem blocksCandidate_body_congr {s t : State} {k : Fin 24} (hb : t.body k = s.body k) (ht : t.timing = s.timing)
    (p : Arm) (box : Box) (f : Fin 24 → Bool) : t.blocksCandidate p box f k = s.blocksCandidate p box f k := by
  unfold State.blocksCandidate
  rw [hb, ht]

theorem blocksCandidate_setBody_ne {s : State} {k i : Fin 24} {b : SlotBody} (h : i ≠ k) (p : Arm) (box : Box)
    (f : Fin 24 → Bool) : (s.setBody k b).blocksCandidate p box f i = s.blocksCandidate p box f i :=
  blocksCandidate_body_congr (by rw [State.body_setBody, if_neg h]) (State.setBody_timing s k b) p box f

/-! ### A grant in the walk -/

theorem grantWaiting_frame (s : State) (k : Fin 24) (c : ClaimData) :
    TableFrame s (s.grantWaiting k c) ∧ (s.grantWaiting k c).records = s.records ∧
      (s.grantWaiting k c).waitList = s.waitList.filter (fun j => j != k) ∧
      (s.grantWaiting k c).slots = (s.setBody k (.granted c s.entryMs)).slots ∧
      (s.grantWaiting k c).events.sticky.quietOf = s.events.sticky.quietOf := by
  have h := queueNotice_frame
    ({ s.setBody k (.granted c s.entryMs) with waitList := s.waitList.filter fun j => j != k }) c.owner
    (noticeOf s .granted k)
  have h0 : TableFrame s { s.setBody k (.granted c s.entryMs) with waitList := s.waitList.filter fun j => j != k } :=
    TableFrame.of_slots s _ _
  exact ⟨h0.trans h.1, h.2.2.2.1, h.2.2.1, h.2.1, h.2.2.2.2⟩

theorem slot_grantWaiting (s : State) (k j : Fin 24) (c : ClaimData) :
    (s.grantWaiting k c).slot j = (s.setBody k (.granted c s.entryMs)).slot j := by
  unfold State.slot; rw [(grantWaiting_frame s k c).2.2.2.1]

theorem body_grantWaiting (s : State) (k j : Fin 24) (c : ClaimData) :
    (s.grantWaiting k c).body j = if j = k then .granted c s.entryMs else s.body j := by
  unfold State.body; rw [slot_grantWaiting, State.slot_setBody]; split <;> rfl

theorem gen_grantWaiting (s : State) (k j : Fin 24) (c : ClaimData) :
    ((s.grantWaiting k c).slot j).gen = (s.slot j).gen := by
  rw [slot_grantWaiting, State.gen_setBody]

theorem grantWaiting_queued (s : State) (k : Fin 24) (c : ClaimData) (q : Arm) :
    Queued s (s.grantWaiting k c) q (if q = c.owner then [noticeOf s .granted k] else []) := by
  have h0 : Queued s { s.setBody k (.granted c s.entryMs) with waitList := s.waitList.filter fun j => j != k } q [] :=
    Queued.of_eq rfl rfl
  have h := h0.trans (queueNotice_queued _ c.owner (noticeOf s .granted k) q)
  rwa [List.nil_append] at h

/-! ### The walk -/

/-- The walk's three cases at an entry. -/
theorem rescreenFrom_cons (ahead : List (Fin 24)) (k : Fin 24) (rest : List (Fin 24)) (s : State) :
    (∃ c left bl, s.body k = .waiting c left bl ∧
      (s.screen c.owner c.box fun j => ahead.contains j).isEmpty = true ∧
      rescreenFrom ahead (k :: rest) s = rescreenFrom ahead rest (s.grantWaiting k c)) ∨
    (∃ c left bl, s.body k = .waiting c left bl ∧
      (s.screen c.owner c.box fun j => ahead.contains j).isEmpty = false ∧
      rescreenFrom ahead (k :: rest) s = rescreenFrom (ahead ++ [k]) rest
        (s.setBody k (.waiting c left (s.screen c.owner c.box fun j => ahead.contains j)))) ∨
    ((s.body k).waitingClaim = none ∧ rescreenFrom ahead (k :: rest) s = rescreenFrom ahead rest s) := by
  cases hb : s.body k with
  | waiting c left bl =>
    cases he : (s.screen c.owner c.box fun j => ahead.contains j).isEmpty with
    | true => exact .inl ⟨c, left, bl, rfl, he, by simp only [rescreenFrom, hb, he, if_true]⟩
    | false =>
      refine .inr (.inl ⟨c, left, bl, rfl, he, ?_⟩)
      simp only [rescreenFrom, hb, he, Bool.false_eq_true, if_false]
  | _ => exact .inr (.inr ⟨rfl, by simp only [rescreenFrom, hb]⟩)

theorem setBody_frame (s : State) (k : Fin 24) (b : SlotBody) : TableFrame s (s.setBody k b) :=
  TableFrame.of_slots s _ s.waitList

theorem rescreenFrom_frame (rest : List (Fin 24)) : ∀ (ahead : List (Fin 24)) (s : State),
    TableFrame s (rescreenFrom ahead rest s) ∧ (rescreenFrom ahead rest s).records = s.records ∧
      (rescreenFrom ahead rest s).events.sticky.quietOf = s.events.sticky.quietOf ∧
      ∀ j, ((rescreenFrom ahead rest s).slot j).gen = (s.slot j).gen := by
  induction rest with
  | nil => exact fun _ s => ⟨.refl s, rfl, rfl, fun _ => rfl⟩
  | cons k rest ih =>
    intro ahead s
    obtain ⟨c, left, bl, -, -, he⟩ | ⟨c, left, bl, -, -, he⟩ | ⟨-, he⟩ := rescreenFrom_cons ahead k rest s
    · rw [he]
      have h1 := grantWaiting_frame s k c
      have h2 := ih ahead (s.grantWaiting k c)
      exact ⟨h1.1.trans h2.1, h2.2.1.trans h1.2.1, h2.2.2.1.trans h1.2.2.2.2,
        fun j => (h2.2.2.2 j).trans (gen_grantWaiting s k j c)⟩
    · rw [he]
      have h2 := ih (ahead ++ [k])
        (s.setBody k (.waiting c left (s.screen c.owner c.box fun j => ahead.contains j)))
      exact ⟨(setBody_frame _ _ _).trans h2.1, h2.2.1, h2.2.2.1, fun j => (h2.2.2.2 j).trans (State.gen_setBody _ _ _ _)⟩
    · rw [he]; exact ih ahead s

theorem body_rescreenFrom_of_not_mem (rest : List (Fin 24)) : ∀ (ahead : List (Fin 24)) (s : State) (k : Fin 24),
    k ∉ rest → (rescreenFrom ahead rest s).body k = s.body k := by
  induction rest with
  | nil => exact fun _ _ _ _ => rfl
  | cons j rest ih =>
    intro ahead s k hk
    simp only [List.mem_cons, not_or] at hk
    obtain ⟨c, left, bl, -, -, he⟩ | ⟨c, left, bl, -, -, he⟩ | ⟨-, he⟩ := rescreenFrom_cons ahead j rest s
    · rw [he, ih _ _ _ hk.2, body_grantWaiting, if_neg hk.1]
    · rw [he, ih _ _ _ hk.2, State.body_setBody, if_neg hk.1]
    · rw [he, ih _ _ _ hk.2]

theorem body_rescreenFrom_of_not_waiting (rest : List (Fin 24)) : ∀ (ahead : List (Fin 24)) (s : State) (k : Fin 24),
    (s.body k).waitingClaim = none → (rescreenFrom ahead rest s).body k = s.body k := by
  induction rest with
  | nil => exact fun _ _ _ _ => rfl
  | cons j rest ih =>
    intro ahead s k hk
    obtain ⟨c, left, bl, hb, -, he⟩ | ⟨c, left, bl, hb, -, he⟩ | ⟨-, he⟩ := rescreenFrom_cons ahead j rest s
    · have hne : k ≠ j := by rintro rfl; rw [hb] at hk; cases hk
      have : (s.grantWaiting j c).body k = s.body k := by rw [body_grantWaiting, if_neg hne]
      rw [he, ih _ _ _ (by rw [this]; exact hk), this]
    · have hne : k ≠ j := by rintro rfl; rw [hb] at hk; cases hk
      have : (s.setBody j (.waiting c left (s.screen c.owner c.box fun j => ahead.contains j))).body k = s.body k := by
        rw [State.body_setBody, if_neg hne]
      rw [he, ih _ _ _ (by rw [this]; exact hk), this]
    · rw [he, ih _ _ _ hk]

theorem BodyRescreened.refl (n : Nat) (b : SlotBody) : BodyRescreened n b b := .inl rfl

theorem BodyRescreened.trans {n : Nat} {b b' b'' : SlotBody} (h : BodyRescreened n b b')
    (h' : BodyRescreened n b' b'') : BodyRescreened n b b'' := by
  rcases h with rfl | ⟨c, left, bl, rfl, ⟨bl', rfl⟩ | rfl⟩
  · exact h'
  · rcases h' with rfl | ⟨c', left', bl'', he, h2⟩
    · exact .inr ⟨c, left, bl, rfl, .inl ⟨bl', rfl⟩⟩
    · cases he
      exact .inr ⟨c, left, bl, rfl, h2⟩
  · rcases h' with rfl | ⟨c', left', bl'', he, h2⟩
    · exact .inr ⟨c, left, bl, rfl, .inr rfl⟩
    · cases he

/-- What the walk may do to a slot (R70, R71). -/
theorem rescreenFrom_rescreened (rest : List (Fin 24)) : ∀ (ahead : List (Fin 24)) (s : State) (k : Fin 24),
    BodyRescreened s.entryMs (s.body k) ((rescreenFrom ahead rest s).body k) := by
  induction rest with
  | nil => exact fun _ _ _ => .refl _ _
  | cons j rest ih =>
    intro ahead s k
    obtain ⟨c, left, bl, hb, -, he⟩ | ⟨c, left, bl, hb, -, he⟩ | ⟨-, he⟩ := rescreenFrom_cons ahead j rest s
    · rw [he]
      have h2 := ih ahead (s.grantWaiting j c) k
      rw [(grantWaiting_frame s j c).1.entryMs] at h2
      refine BodyRescreened.trans ?_ h2
      rw [body_grantWaiting]
      split
      · next h => subst h; rw [hb]; exact .inr ⟨c, left, bl, rfl, .inr rfl⟩
      · exact .refl _ _
    · rw [he]
      have h2 := ih (ahead ++ [j]) (s.setBody j (.waiting c left (s.screen c.owner c.box fun j => ahead.contains j))) k
      rw [(setBody_frame s _ _).entryMs] at h2
      refine BodyRescreened.trans ?_ h2
      rw [State.body_setBody]
      split
      · next h => subst h; rw [hb]; exact .inr ⟨c, left, bl, rfl, .inl ⟨_, rfl⟩⟩
      · exact .refl _ _
    · rw [he]; exact ih ahead s k

theorem mem_ne_of_nodup_cons {k j : Fin 24} {rest : List (Fin 24)} (h : (k :: rest).Nodup) (hj : j ∈ rest) :
    j ≠ k := by
  rintro rfl
  exact (List.nodup_cons.mp h).1 hj

/-- A claim that stands in the table against the walk, live or among the entries already visited, keeps out of its
space every claim that the walk grants, and so what blocks it is settled for the walk (R70). -/
theorem rescreenFrom_settled (rest : List (Fin 24)) : ∀ (ahead : List (Fin 24)) (s : State) (k : Fin 24)
    (c : ClaimData) (f : Fin 24 → Bool), k ∉ rest → (∀ j ∈ rest, f j = false) →
    ((s.body k).live = some c ∨ ((s.body k).waitingClaim = some c ∧ k ∈ ahead)) →
    (rescreenFrom ahead rest s).screen c.owner c.box f = s.screen c.owner c.box f := by
  induction rest with
  | nil => exact fun _ _ _ _ _ _ _ _ => rfl
  | cons j rest ih =>
    intro ahead s k c f hk hf hstand
    simp only [List.mem_cons, not_or] at hk
    have hf' : ∀ i ∈ rest, f i = false := fun i hi => hf i (by simp [hi])
    obtain ⟨d, left, bl, hb, hemp, he⟩ | ⟨d, left, bl, hb, hemp, he⟩ | ⟨hb, he⟩ := rescreenFrom_cons ahead j rest s
    · have hbk : (s.grantWaiting j d).body k = s.body k := by rw [body_grantWaiting, if_neg hk.1]
      rw [he, ih ahead (s.grantWaiting j d) k c f hk.2 hf' (by rw [hbk]; exact hstand)]
      have hfr := (grantWaiting_frame s j d).1
      refine screen_eq (fun i => ?_) (State.activeGroupsTouched_congr hfr.keepOut hfr.lines _)
      by_cases hij : i = j
      · subst hij
        have hnew : (s.grantWaiting i d).body i = .granted d s.entryMs := by rw [body_grantWaiting, if_pos rfl]
        have h1 : s.blocksCandidate c.owner c.box f i = false := by
          unfold State.blocksCandidate
          simp only [hb, hf i (by simp), Bool.and_false]
        rw [h1]
        unfold State.blocksCandidate
        simp only [hnew]
        rw [Bool.eq_false_iff]
        intro hcon
        simp only [Bool.and_eq_true, beq_iff_eq] at hcon
        rw [screen_isEmpty_iff] at hemp
        have hnb := hemp.1 k
        rw [Bool.eq_false_iff, Ne, blocksCandidate_iff] at hnb
        apply hnb
        have hown : c.owner = d.owner.other := by rw [hcon.1, other_other]
        have hconf : c.box.conflicts s.timing.clearance d.box = true := by
          rw [conflicts_comm, ← hfr.timing]; exact hcon.2
        rcases hstand with hl | ⟨hw, hah⟩
        · exact .inl ⟨c, hl, hown, hconf⟩
        · exact .inr ⟨c, hw, hown, hconf, by simpa using hah⟩
      · exact blocksCandidate_body_congr (by rw [body_grantWaiting, if_neg hij]) hfr.timing _ _ _
    · have hbk : (s.setBody j (.waiting d left (s.screen d.owner d.box fun j => ahead.contains j))).body k = s.body k := by
        rw [State.body_setBody, if_neg hk.1]
      rw [he, ih (ahead ++ [j]) _ k c f hk.2 hf' ?_]
      · refine screen_eq (fun i => ?_) rfl
        by_cases hij : i = j
        · subst hij
          unfold State.blocksCandidate
          rw [State.body_setBody_self, hb]
          simp only [hf i (by simp), Bool.and_false]
        · exact blocksCandidate_setBody_ne hij _ _ _
      · rw [hbk]
        rcases hstand with hl | ⟨hw, hah⟩
        · exact .inl hl
        · exact .inr ⟨hw, by simp [hah]⟩
    · rw [he]
      exact ih ahead s k c f hk.2 hf' hstand

/-- Whether slot j stands ahead of slot k for a walk that has kept `ahead` and still has `rest` to visit, its claim
still waiting in t. -/
def walkAhead (ahead rest : List (Fin 24)) (t : State) (k j : Fin 24) : Bool :=
  (ahead.contains j || (rest.takeWhile fun i => i != k).contains j) && (t.body j).waitingClaim.isSome

/-- Each WAITING claim that the walk visits is granted where nothing blocks it in the table as the walk leaves it, and
otherwise stays with what blocks it (R70). -/
theorem rescreenFrom_decided (rest : List (Fin 24)) : ∀ (ahead : List (Fin 24)) (s : State) (k : Fin 24)
    (c : ClaimData) (left : Nat) (bl : Blockers), rest.Nodup → (∀ j ∈ ahead, j ∉ rest) → k ∈ rest →
    (∀ j ∈ ahead, (s.body j).waitingClaim.isSome = true) → s.body k = .waiting c left bl →
    let t := rescreenFrom ahead rest s
    let found := t.screen c.owner c.box (walkAhead ahead rest t k)
    if found.isEmpty = true then t.body k = .granted c s.entryMs else t.body k = .waiting c left found := by
  induction rest with
  | nil => intro _ _ _ _ _ _ _ _ hk; cases hk
  | cons j rest ih =>
    intro ahead s k c left bl hn hdis hk hah hbk
    have hn' := List.nodup_cons.mp hn
    have hdis' : ∀ i ∈ ahead, i ∉ rest := fun i hi hr => hdis i hi (by simp [hr])
    have hjah : j ∉ ahead := fun h => hdis j h (by simp)
    intro t found
    -- what the walk says of `j` itself, once the rest of the walk has settled it
    by_cases hkj : k = j
    · subst hkj
      have hf : ∀ i ∈ rest, (fun i => ahead.contains i) i = false := by
        intro i hi
        simp only [List.contains_eq_mem, decide_eq_false_iff_not]
        exact fun h => hdis' i h hi
      have hsame : ∀ (u : State), t = rescreenFrom ahead rest u ∨ t = rescreenFrom (ahead ++ [k]) rest u →
          (∀ i ∈ ahead, u.body i = s.body i) →
          t.screen c.owner c.box (walkAhead ahead (k :: rest) t k) = t.screen c.owner c.box fun i => ahead.contains i := by
        intro u hu hkeep
        refine screen_eq (fun i => blocksCandidate_ahead_congr fun hw => ?_) rfl
        unfold walkAhead
        simp [hw]
      obtain ⟨d, left', bl', hb, hemp, he⟩ | ⟨d, left', bl', hb, hemp, he⟩ | ⟨hb, he⟩ := rescreenFrom_cons ahead k rest s
      · rw [hbk] at hb
        cases hb
        have hkeep : ∀ i ∈ ahead, (s.grantWaiting k c).body i = s.body i := by
          intro i hi
          rw [body_grantWaiting, if_neg (by rintro rfl; exact hjah hi)]
        have hset := rescreenFrom_settled rest ahead (s.grantWaiting k c) k c (fun i => ahead.contains i) hn'.1 hf
          (.inl (by rw [body_grantWaiting, if_pos rfl]; rfl))
        have hfound : found.isEmpty = true := by
          show (t.screen c.owner c.box (walkAhead ahead (k :: rest) t k)).isEmpty = true
          rw [hsame _ (.inl he) hkeep]
          show ((rescreenFrom ahead (k :: rest) s).screen _ _ _).isEmpty = true
          rw [he, hset]
          rw [screen_isEmpty_iff] at hemp ⊢
          have hfr := (grantWaiting_frame s k c).1
          refine ⟨fun i => ?_, by rw [State.activeGroupsTouched_congr hfr.keepOut hfr.lines]; exact hemp.2⟩
          by_cases hik : i = k
          · subst hik
            unfold State.blocksCandidate
            rw [body_grantWaiting, if_pos rfl]
            simp
          · rw [blocksCandidate_body_congr (by rw [body_grantWaiting, if_neg hik]) hfr.timing]
            exact hemp.1 i
        rw [if_pos hfound]
        show (rescreenFrom ahead (k :: rest) s).body k = _
        rw [he, body_rescreenFrom_of_not_mem _ _ _ _ hn'.1, body_grantWaiting, if_pos rfl]
      · rw [hbk] at hb
        cases hb
        have hkeep : ∀ i ∈ ahead, (s.setBody k (.waiting c left
            (s.screen c.owner c.box fun j => ahead.contains j))).body i = s.body i := by
          intro i hi
          rw [State.body_setBody, if_neg (by rintro rfl; exact hjah hi)]
        have hset := rescreenFrom_settled rest (ahead ++ [k])
          (s.setBody k (.waiting c left (s.screen c.owner c.box fun j => ahead.contains j))) k c
          (fun i => ahead.contains i) hn'.1 hf
          (.inr ⟨by rw [State.body_setBody_self]; rfl, by simp⟩)
        have hpre : (s.setBody k (.waiting c left (s.screen c.owner c.box fun j => ahead.contains j))).screen c.owner
            c.box (fun i => ahead.contains i) = s.screen c.owner c.box fun i => ahead.contains i := by
          refine screen_eq (fun i => ?_) rfl
          by_cases hik : i = k
          · subst hik
            unfold State.blocksCandidate
            rw [State.body_setBody_self, hbk]
            rfl
          · exact blocksCandidate_setBody_ne hik _ _ _
        have hfound : found = s.screen c.owner c.box fun i => ahead.contains i := by
          show t.screen c.owner c.box (walkAhead ahead (k :: rest) t k) = _
          rw [hsame _ (.inr he) hkeep]
          show (rescreenFrom ahead (k :: rest) s).screen _ _ _ = _
          rw [he, hset, hpre]
        rw [hfound, if_neg (by rw [hemp]; simp)]
        show (rescreenFrom ahead (k :: rest) s).body k = _
        rw [he, body_rescreenFrom_of_not_mem _ _ _ _ hn'.1, State.body_setBody_self]
      · rw [hbk] at hb; cases hb
    · have hkr : k ∈ rest := by
        rcases List.mem_cons.mp hk with h | h
        · exact absurd h hkj
        · exact h
      have hjk : (j != k) = true := by simpa using fun e => hkj e.symm
      have htw : ∀ i, ((j :: rest).takeWhile fun i => i != k).contains i =
          (i == j || (rest.takeWhile fun i => i != k).contains i) := by
        intro i
        rw [List.takeWhile_cons, if_pos hjk, List.contains_cons]
      obtain ⟨d, left', bl', hb, hemp, he⟩ | ⟨d, left', bl', hb, hemp, he⟩ | ⟨hb, he⟩ := rescreenFrom_cons ahead j rest s
      · have hbk' : (s.grantWaiting j d).body k = .waiting c left bl := by
          rw [body_grantWaiting, if_neg hkj]; exact hbk
        have hah' : ∀ i ∈ ahead, ((s.grantWaiting j d).body i).waitingClaim.isSome = true := by
          intro i hi
          rw [body_grantWaiting, if_neg (by rintro rfl; exact hjah hi)]
          exact hah i hi
        have h2 := ih ahead (s.grantWaiting j d) k c left bl hn'.2 hdis' hkr hah' hbk'
        simp only at h2
        rw [← he, (grantWaiting_frame s j d).1.entryMs] at h2
        have hj : ((rescreenFrom ahead (j :: rest) s).body j).waitingClaim.isSome = false := by
          rw [he, body_rescreenFrom_of_not_mem _ _ _ _ hn'.1, body_grantWaiting, if_pos rfl]; rfl
        have hfun : walkAhead ahead (j :: rest) t k = walkAhead ahead rest t k := by
          funext i
          unfold walkAhead
          rw [htw]
          by_cases hij : i = j
          · subst hij; rw [hj]; simp
          · rw [beq_eq_false_iff_ne.mpr hij, Bool.false_or]
        show if (t.screen c.owner c.box (walkAhead ahead (j :: rest) t k)).isEmpty = true then _ else
          t.body k = .waiting c left (t.screen c.owner c.box (walkAhead ahead (j :: rest) t k))
        rw [hfun]
        exact h2
      · have hbk' : (s.setBody j (.waiting d left' (s.screen d.owner d.box fun j => ahead.contains j))).body k =
            .waiting c left bl := by
          rw [State.body_setBody, if_neg hkj]; exact hbk
        have hah' : ∀ i ∈ ahead ++ [j], ((s.setBody j (.waiting d left'
            (s.screen d.owner d.box fun j => ahead.contains j))).body i).waitingClaim.isSome = true := by
          intro i hi
          rw [State.body_setBody]
          split
          · rfl
          · next hne =>
            rcases List.mem_append.mp hi with h | h
            · exact hah i h
            · exact absurd (List.mem_singleton.mp h) hne
        have hdis'' : ∀ i ∈ ahead ++ [j], i ∉ rest := by
          intro i hi
          rcases List.mem_append.mp hi with h | h
          · exact hdis' i h
          · rw [List.mem_singleton.mp h]; exact hn'.1
        have h2 := ih (ahead ++ [j]) _ k c left bl hn'.2 hdis'' hkr hah' hbk'
        simp only at h2
        rw [← he, (setBody_frame s _ _).entryMs] at h2
        have hfun : walkAhead ahead (j :: rest) t k = walkAhead (ahead ++ [j]) rest t k := by
          funext i
          unfold walkAhead
          have happ : (ahead ++ [j]).contains i = (ahead.contains i || i == j) := by
            rw [Bool.eq_iff_iff]; simp
          rw [htw, happ, Bool.or_assoc]
        show if (t.screen c.owner c.box (walkAhead ahead (j :: rest) t k)).isEmpty = true then _ else
          t.body k = .waiting c left (t.screen c.owner c.box (walkAhead ahead (j :: rest) t k))
        rw [hfun]
        exact h2
      · have h2 := ih ahead s k c left bl hn'.2 hdis' hkr hah hbk
        simp only at h2
        rw [← he] at h2
        have hj : ((rescreenFrom ahead (j :: rest) s).body j).waitingClaim.isSome = false := by
          rw [he, body_rescreenFrom_of_not_mem _ _ _ _ hn'.1, hb]; rfl
        have hfun : walkAhead ahead (j :: rest) t k = walkAhead ahead rest t k := by
          funext i
          unfold walkAhead
          rw [htw]
          by_cases hij : i = j
          · subst hij; rw [hj]; simp
          · rw [beq_eq_false_iff_ne.mpr hij, Bool.false_or]
        show if (t.screen c.owner c.box (walkAhead ahead (j :: rest) t k)).isEmpty = true then _ else
          t.body k = .waiting c left (t.screen c.owner c.box (walkAhead ahead (j :: rest) t k))
        rw [hfun]
        exact h2

/-- The wait list after the walk: the granted claims have left it. -/
theorem rescreenFrom_waitList (rest : List (Fin 24)) : ∀ (ahead : List (Fin 24)) (s : State),
    (rescreenFrom ahead rest s).waitList = s.waitList.filter fun k =>
      !((s.body k).waitingClaim.isSome && ((rescreenFrom ahead rest s).body k).waitingClaim.isNone) := by
  induction rest with
  | nil =>
    intro ahead s
    show s.waitList = _
    rw [List.filter_eq_self.mpr]
    intro k _
    show (!((s.body k).waitingClaim.isSome && (s.body k).waitingClaim.isNone)) = true
    cases (s.body k).waitingClaim <;> rfl
  | cons j rest ih =>
    intro ahead s
    obtain ⟨c, left, bl, hb, -, he⟩ | ⟨c, left, bl, hb, -, he⟩ | ⟨-, he⟩ := rescreenFrom_cons ahead j rest s
    · rw [he, ih, (grantWaiting_frame s j c).2.2.1, List.filter_filter]
      refine List.filter_congr fun k _ => ?_
      by_cases hk : k = j
      · subst hk
        have hn : ((s.grantWaiting k c).body k).waitingClaim = none := by rw [body_grantWaiting, if_pos rfl]; rfl
        rw [body_rescreenFrom_of_not_waiting _ _ _ _ hn, hn, hb]
        simp [SlotBody.waitingClaim]
      · have : (k != j) = true := by simpa using hk
        rw [body_grantWaiting, if_neg hk, this, Bool.and_true]
    · rw [he, ih]
      refine List.filter_congr fun k _ => ?_
      by_cases hk : k = j
      · subst hk
        rw [State.body_setBody_self, hb]
        rfl
      · rw [State.body_setBody, if_neg hk]
    · rw [he, ih]

theorem noticeOf_congr {s t : State} {k : Fin 24} (h : (t.slot k).gen = (s.slot k).gen) (n : NoticeKind) :
    noticeOf t n k = noticeOf s n k := by
  unfold noticeOf; rw [h]

/-- The notices of the walk's grants, each grant told once (R71). -/
theorem rescreenFrom_queued (rest : List (Fin 24)) (q : Arm) : ∀ (ahead : List (Fin 24)) (s : State),
    ∃ gs : List (Fin 24), gs.Nodup ∧ (∀ k, k ∈ gs ↔ GrantedBetween s (rescreenFrom ahead rest s) q k) ∧
      Queued s (rescreenFrom ahead rest s) q (gs.map (noticeOf s .granted)) := by
  induction rest with
  | nil =>
    intro ahead s
    refine ⟨[], List.nodup_nil, fun k => ?_, .refl s q⟩
    constructor
    · intro h; cases h
    · rintro ⟨c, left, bl, h1, -, h2⟩
      have h2 : s.body k = _ := h2
      rw [h1] at h2
      cases h2
  | cons j rest ih =>
    intro ahead s
    obtain ⟨c, left, bl, hb, -, he⟩ | ⟨c, left, bl, hb, -, he⟩ | ⟨-, he⟩ := rescreenFrom_cons ahead j rest s
    · rw [he]
      obtain ⟨gs, hn, hmem, hq⟩ := ih ahead (s.grantWaiting j c)
      have hnew : (s.grantWaiting j c).body j = .granted c s.entryMs := by rw [body_grantWaiting, if_pos rfl]
      have hfin : (rescreenFrom ahead rest (s.grantWaiting j c)).body j = .granted c s.entryMs := by
        rw [body_rescreenFrom_of_not_waiting _ _ _ _ (by rw [hnew]; rfl), hnew]
      have hjgs : j ∉ gs := by
        rw [hmem]
        rintro ⟨d, l, b, h, -⟩
        rw [hnew] at h
        cases h
      have hmap : gs.map (noticeOf (s.grantWaiting j c) .granted) = gs.map (noticeOf s .granted) :=
        List.map_congr_left fun k _ => noticeOf_congr (gen_grantWaiting s j k c) _
      have hiff : ∀ k, GrantedBetween s (rescreenFrom ahead rest (s.grantWaiting j c)) q k ↔
          (k = j ∧ c.owner = q) ∨ k ∈ gs := by
        intro k
        rw [hmem]
        by_cases hk : k = j
        · subst hk
          constructor
          · rintro ⟨d, l, b, h, ho, -⟩
            rw [hb] at h
            cases h
            exact .inl ⟨rfl, ho⟩
          · rintro (⟨-, ho⟩ | ⟨d, l, b, h, -⟩)
            · exact ⟨c, left, bl, hb, ho, hfin⟩
            · rw [hnew] at h; cases h
        · unfold GrantedBetween
          rw [body_grantWaiting, if_neg hk, (grantWaiting_frame s j c).1.entryMs]
          simp [hk]
      have h1 := (grantWaiting_queued s j c q).trans hq
      rw [hmap] at h1
      by_cases ho : c.owner = q
      · rw [if_pos ho.symm] at h1
        refine ⟨j :: gs, List.nodup_cons.mpr ⟨hjgs, hn⟩, fun k => ?_, h1⟩
        rw [hiff, List.mem_cons]
        simp [ho]
      · rw [if_neg (fun e => ho e.symm)] at h1
        refine ⟨gs, hn, fun k => ?_, h1⟩
        rw [hiff]
        simp [ho]
    · rw [he]
      obtain ⟨gs, hn, hmem, hq⟩ := ih (ahead ++ [j])
        (s.setBody j (.waiting c left (s.screen c.owner c.box fun j => ahead.contains j)))
      have hmap : gs.map (noticeOf (s.setBody j (.waiting c left
          (s.screen c.owner c.box fun j => ahead.contains j))) .granted) = gs.map (noticeOf s .granted) :=
        List.map_congr_left fun k _ => noticeOf_congr (State.gen_setBody s j k _) _
      rw [hmap] at hq
      have h0 : Queued s (s.setBody j (.waiting c left (s.screen c.owner c.box fun j => ahead.contains j))) q [] :=
        Queued.of_eq rfl rfl
      refine ⟨gs, hn, fun k => ?_, by simpa using h0.trans hq⟩
      rw [hmem]
      unfold GrantedBetween
      rw [State.body_setBody]
      by_cases hk : k = j
      · subst hk
        rw [if_pos rfl, hb]
        constructor
        · rintro ⟨d, l, b, h, r⟩
          cases h
          exact ⟨c, left, bl, rfl, r⟩
        · rintro ⟨d, l, b, h, r⟩
          cases h
          exact ⟨c, left, _, rfl, r⟩
      · rw [if_neg hk]
        rfl
    · rw [he]; exact ih ahead s

/-! ### The whole event -/

theorem takeWhile_filter_ne (g : Fin 24 → Bool) (k : Fin 24) (hk : g k = true) (l : List (Fin 24)) :
    (l.filter g).takeWhile (fun i => i != k) = (l.takeWhile fun i => i != k).filter g := by
  induction l with
  | nil => rfl
  | cons j l ih =>
    by_cases hj : j = k
    · subst hj
      rw [List.filter_cons_of_pos hk]
      simp
    · have hj' : (j != k) = true := by simpa using hj
      cases hg : g j with
      | true =>
        rw [List.filter_cons_of_pos hg, List.takeWhile_cons, if_pos hj', List.takeWhile_cons, if_pos hj',
          List.filter_cons_of_pos hg, ih]
      | false =>
        rw [List.filter_cons_of_neg (by simp [hg]), ih, List.takeWhile_cons, if_pos hj',
          List.filter_cons_of_neg (by simp [hg])]

/-- The retirement of the claims of a list with its re-screen, and the re-screen alone where the list is empty: all
that it does (R69 to R71, R89, R90, R118). -/
theorem retireAll_rescreen_event (s : State) (ks : List (Fin 24)) (kind : Option NoticeKind) (r : Bool)
    (hw : s.waitList.Nodup) (hks : s.Retirable ks) :
    TableEvent s (s.retireAll ks kind r).rescreen ks kind r id := by
  have hbody := body_retireAll ks kind r s hks
  have hslot := slot_retireAll ks kind r s hks
  have hlist := waitList_retireAll ks kind r s hks
  have hfr := retireAll_frame ks kind r s
  have hwalk := rescreenFrom_frame (s.retireAll ks kind r).waitList [] (s.retireAll ks kind r)
  have hfree : ∀ k ∈ ks, ((s.retireAll ks kind r).rescreen).body k = .free := by
    intro k hk
    have : (s.retireAll ks kind r).body k = .free := by rw [hbody, if_pos hk]
    rw [← this]
    exact body_rescreenFrom_of_not_waiting _ _ _ _ (by rw [this]; rfl)
  constructor
  case frame => exact hfr.trans hwalk.1
  case retired =>
    intro k hk
    have h1 := hwalk.2.2.2 k
    have h2 := hslot k
    rw [if_pos hk] at h2
    have h3 := hfree k hk
    show ((s.retireAll ks kind r).rescreen).slot k = _
    have h4 : (((s.retireAll ks kind r).rescreen).slot k).gen = (s.slot k).gen + 1 := by
      show ((rescreenFrom [] _ _).slot k).gen = _
      rw [h1, h2]
    show (⟨(((s.retireAll ks kind r).rescreen).slot k).gen, ((s.retireAll ks kind r).rescreen).body k⟩ : Slot) = _
    rw [h4, h3]
  case others =>
    intro j hj
    have h2 := hslot j
    rw [if_neg hj] at h2
    refine ⟨by show ((rescreenFrom [] _ _).slot j).gen = _; rw [hwalk.2.2.2 j, h2], ?_⟩
    have h3 := rescreenFrom_rescreened (s.retireAll ks kind r).waitList [] (s.retireAll ks kind r) j
    rw [hfr.entryMs, hbody, if_neg hj] at h3
    exact h3
  case decided =>
    intro k c left bl hk hkw hb
    have hmem : k ∈ (s.retireAll ks kind r).waitList := by
      rw [hlist, List.mem_filter]; exact ⟨hkw, by simpa using hk⟩
    have hnd : (s.retireAll ks kind r).waitList.Nodup := by rw [hlist]; exact hw.filter _
    have hb' : (s.retireAll ks kind r).body k = .waiting c left bl := by rw [hbody, if_neg hk]; exact hb
    have h := rescreenFrom_decided (s.retireAll ks kind r).waitList [] (s.retireAll ks kind r) k c left bl hnd
      (by simp) hmem (by simp) hb'
    simp only at h
    rw [hfr.entryMs] at h
    have hfun : walkAhead [] (s.retireAll ks kind r).waitList ((s.retireAll ks kind r).rescreen) k =
        stillAhead s ((s.retireAll ks kind r).rescreen) k := by
      funext j
      unfold walkAhead stillAhead State.aheadInList
      rw [hlist, takeWhile_filter_ne _ k (by simpa using hk)]
      simp only [List.contains_nil, Bool.false_or]
      by_cases hj : j ∈ ks
      · rw [hfree j hj]; simp [SlotBody.waitingClaim]
      · congr 1
        rw [List.contains_eq_mem, List.contains_eq_mem]
        simp [hj]
    intro found
    show if (((s.retireAll ks kind r).rescreen).screen c.owner c.box
      (stillAhead s ((s.retireAll ks kind r).rescreen) k)).isEmpty = true then _ else
      ((s.retireAll ks kind r).rescreen).body k = .waiting c left (((s.retireAll ks kind r).rescreen).screen c.owner c.box
      (stillAhead s ((s.retireAll ks kind r).rescreen) k))
    rw [← hfun]
    exact h
  case waitList =>
    show (rescreenFrom [] _ _).waitList = _
    rw [rescreenFrom_waitList]
    rw [show (s.retireAll ks kind r).waitList = s.waitList.filter (fun j => !ks.contains j) from hlist,
      List.filter_filter]
    refine List.filter_congr fun k _ => ?_
    by_cases hk : k ∈ ks
    · simp [hk]
    · rw [hbody, if_neg hk]
      have : ks.contains k = false := by simpa using hk
      rw [this, ← hlist]
      simp only [Bool.not_false, Bool.and_true, Bool.false_or]
      rfl
  case notices =>
    intro q
    obtain ⟨gs, hn, hmem, hq⟩ := rescreenFrom_queued (s.retireAll ks kind r).waitList q [] (s.retireAll ks kind r)
    have hmap : gs.map (noticeOf (s.retireAll ks kind r) .granted) = gs.map (noticeOf s .granted) := by
      refine List.map_congr_left fun k hk => noticeOf_congr ?_ _
      obtain ⟨d, l, b, h, -⟩ := (hmem k).mp hk
      have hk' : k ∉ ks := by
        intro hk'
        rw [hbody, if_pos hk'] at h
        cases h
      rw [hslot, if_neg hk']
    rw [hmap] at hq
    refine ⟨gs, hn, fun k => ?_, (retireAll_queued ks kind r q s hks).trans hq⟩
    rw [hmem]
    unfold GrantedBetween
    rw [hbody, hfr.entryMs]
    by_cases hk : k ∈ ks
    · rw [if_pos hk]
      constructor
      · rintro ⟨d, l, b, h, -⟩; cases h
      · rintro ⟨d, l, b, -, -, h⟩
        have := hfree k hk
        rw [show ((s.retireAll ks kind r).rescreen).body k = _ from h] at this
        cases this
    · rw [if_neg hk]; rfl
  case places =>
    intro q
    rw [← record_retireAll ks kind r q s hks]
    unfold State.record
    rw [show ((s.retireAll ks kind r).rescreen).records = _ from hwalk.2.1]
  case sticky =>
    show (rescreenFrom [] _ _).events.sticky.quietOf = _
    rw [hwalk.2.2.1]
    exact sticky_retireAll ks kind r s hks

theorem retireAndRescreen_event (s : State) (ks : List (Fin 24)) (kind : Option NoticeKind) (r : Bool)
    (hw : s.waitList.Nodup) (hks : s.Retirable ks) (hne : ks ≠ []) :
    TableEvent s (s.retireAndRescreen ks kind r) ks kind r id := by
  unfold State.retireAndRescreen
  rw [if_neg (by simpa using hne)]
  exact retireAll_rescreen_event s ks kind r hw hks

theorem rescreen_event (s : State) (hw : s.waitList.Nodup) : TableEvent s s.rescreen [] none false id :=
  retireAll_rescreen_event s [] none false hw ⟨List.nodup_nil, by simp⟩

/-- The one retirement of a claim that stands in slot k. -/
theorem State.Retirable.single {s : State} {k : Fin 24} (h : (s.body k).claim.isSome = true) : s.Retirable [k] :=
  ⟨List.nodup_singleton k, by simpa using h⟩

end Sys2Proof.Machine
end

