-- ==== Sys2Proof/Laws/TimeEvents.lean ====
section
/-! SUPPORT. What the timer events and a millisecond of the time base come to: which expiries are due, and that a
millisecond is the tick with those expiries taken after it, one event after another. -/

namespace Sys2Proof.Machine

/-! ### What no event of the table or of a source touches -/

/-- A retirement with its re-screen stays inside the Claim Table (R89). -/
theorem retireAndRescreen_frame (s : State) (ks : List (Fin 24)) (kind : Option NoticeKind) (r : Bool) :
    TableFrame s (s.retireAndRescreen ks kind r) := by
  unfold State.retireAndRescreen
  split
  · exact TableFrame.refl s
  · exact (retireAll_frame ks kind r s).trans (rescreenFrom_frame _ [] _).1

theorem rescreen_frame (s : State) : TableFrame s s.rescreen := (rescreenFrom_frame _ [] _).1

/-- The two reset sources are as they were. -/
def SameResets (s t : State) : Prop := t.resetnLow = s.resetnLow ∧ t.supplyLow = s.supplyLow

theorem SameResets.trans {s t u : State} (h : SameResets s t) (h' : SameResets t u) : SameResets s u :=
  ⟨h'.1.trans h.1, h'.2.trans h.2⟩

theorem SameResets.inReset {s t : State} (h : SameResets s t) : t.inReset = s.inReset := State.inReset_congr h.1 h.2

theorem TableFrame.sameResets {s t : State} (h : TableFrame s t) : SameResets s t := ⟨h.resetnLow, h.supplyLow⟩

theorem sameResets_stopArm (s : State) (p : Arm) (c : StopCause) : SameResets s (s.stopArm p c) := by
  have h := frame_stopArm s p c
  have h1 := congrArg State.resetnLow h
  have h2 := congrArg State.supplyLow h
  exact ⟨h1, h2⟩

theorem sameResets_resumeCheck (s : State) (p : Arm) : SameResets s (s.resumeCheck p) := by
  have h := (frame_resumeCheck s p).2
  have h1 := congrArg State.resetnLow h
  have h2 := congrArg State.supplyLow h
  exact ⟨h1, h2⟩

theorem sameResets_keepIntrusion (s : State) (p : Arm) : SameResets s (s.keepIntrusion p) := by
  have h := frame_keepIntrusion s p
  have h1 := congrArg State.resetnLow h
  have h2 := congrArg State.supplyLow h
  exact ⟨h1, h2⟩

theorem sameResets_guardActivate (s : State) (g : Group) (p : Arm) : SameResets s (s.guardActivate g p) := by
  unfold State.guardActivate
  split
  · exact sameResets_stopArm s p _
  · exact ⟨rfl, rfl⟩

theorem sameResets_tableActivate (s : State) (g : Group) : SameResets s (s.tableActivate g) := by
  have h : SameResets s ((s.retireAll (s.revoked g) (some .revoked) false).joinGroup g) :=
    (retireAll_frame (s.revoked g) (some .revoked) false s).sameResets.trans
      ⟨by simp [State.joinGroup], by simp [State.joinGroup]⟩
  unfold State.tableActivate
  dsimp only
  generalize s.retireAll (s.revoked g) (some .revoked) false = t at h ⊢
  split
  · exact h
  · have hf : SameResets (t.joinGroup g) (t.joinGroup g).flagRevoked :=
      ⟨State.flagRevoked_resetnLow _, State.flagRevoked_supplyLow _⟩
    exact (h.trans hf).trans (rescreen_frame _).sameResets

theorem sameResets_groupEvent (s : State) (before : Bool) (g : Group) : SameResets s (s.groupEvent before g) := by
  unfold State.groupEvent State.groupActivated State.groupDeactivated
  split
  · exact ⟨rfl, rfl⟩
  · split
    · split
      · refine .trans ?_ (sameResets_resumeCheck _ _)
        refine .trans ?_ (sameResets_resumeCheck _ _)
        refine .trans ?_ (sameResets_keepIntrusion _ _)
        exact (rescreen_frame s).sameResets.trans (sameResets_keepIntrusion _ _)
      · exact ⟨rfl, rfl⟩
    · split
      · refine .trans ?_ (sameResets_keepIntrusion _ _)
        refine .trans ?_ (sameResets_keepIntrusion _ _)
        refine .trans ?_ (sameResets_guardActivate _ _ _)
        exact (sameResets_tableActivate s g).trans (sameResets_guardActivate _ _ _)
      · exact ⟨rfl, rfl⟩

theorem sameResets_estopEvent (s : State) (before : Bool) : SameResets s (s.estopEvent before) := by
  unfold State.estopEvent
  split
  · exact ⟨rfl, rfl⟩
  · split
    · exact (sameResets_resumeCheck _ _).trans (sameResets_resumeCheck _ _)
    · exact (sameResets_stopArm _ _ _).trans (sameResets_stopArm _ _ _)

theorem sameResets_afterSources {s : State} {change : State → State} (h : SameResets s (change s)) :
    SameResets s (s.afterSources change) :=
  h.trans ((sameResets_groupEvent _ _ _).trans ((sameResets_groupEvent _ _ _).trans
    ((sameResets_groupEvent _ _ _).trans (sameResets_estopEvent _ _))))

/-! ### The four expiries -/

theorem sameResets_lapseSlot (s : State) (k : Fin 24) : SameResets s (s.lapseSlot k) := by
  unfold State.lapseSlot
  split
  · exact (retireAndRescreen_frame _ _ _ _).sameResets
  · exact ⟨rfl, rfl⟩

theorem sameResets_expireWait (s : State) (k : Fin 24) : SameResets s (s.expireWait k) := by
  unfold State.expireWait
  split
  · exact (retireAndRescreen_frame _ _ _ _).sameResets
  · exact ⟨rfl, rfl⟩

theorem sameResets_expireReportTimer (s : State) (p : Arm) : SameResets s (s.expireReportTimer p) := by
  unfold State.expireReportTimer
  split
  · exact (retireAndRescreen_frame _ _ _ _).sameResets
  · exact ⟨rfl, rfl⟩

theorem sameResets_expireFilter (s : State) (n : Fin 8) : SameResets s (s.expireFilter n) := by
  unfold State.expireFilter
  split
  · exact sameResets_afterSources ⟨rfl, rfl⟩
  · exact ⟨rfl, rfl⟩

/-! ### The expiries that are due -/

theorem mem_dueLapses (s : State) (k : Fin 24) : k ∈ s.dueLapses ↔ ∃ c, s.body k = .granted c 0 := by
  unfold State.dueLapses
  simp only [List.mem_filter, mem_allSlots, true_and]
  split
  · next c h => exact ⟨fun _ => ⟨c, h⟩, fun _ => rfl⟩
  · next h => exact ⟨nofun, fun ⟨c, hc⟩ => (h c hc).elim⟩

theorem mem_dueWaits (s : State) (k : Fin 24) : k ∈ s.dueWaits ↔ ∃ c bl, s.body k = .waiting c 0 bl := by
  unfold State.dueWaits
  simp only [List.mem_filter, mem_allSlots, true_and]
  split
  · next c bl h => exact ⟨fun _ => ⟨c, bl, h⟩, fun _ => rfl⟩
  · next h => exact ⟨nofun, fun ⟨c, bl, hc⟩ => (h c bl hc).elim⟩

theorem mem_dueReports (s : State) (p : Arm) : p ∈ s.dueReports ↔ (s.guard p).reportTimer = some 0 := by
  simp [State.dueReports]

theorem mem_dueFilters (s : State) (n : Fin 8) : n ∈ s.dueFilters ↔ (s.line n).filterTimer = some 0 := by
  simp [State.dueFilters]

/-- The events that the expiries due in a state are, in the order in which a millisecond takes them. -/
def State.dueExpiries (s : State) : List Instr :=
  s.dueLapses.map .lapse ++ s.dueWaits.map .waitExpiry ++ s.dueReports.map .reportTimerExpiry ++
    s.dueFilters.map .filterTimerExpiry

theorem mem_dueExpiries (s : State) (i : Instr) : i ∈ s.dueExpiries ↔ ExpiryDue s i := by
  simp only [State.dueExpiries, List.mem_append, List.mem_map, mem_dueLapses, mem_dueWaits, mem_dueReports,
    mem_dueFilters]
  constructor
  · rintro (((⟨k, ⟨c, h⟩, rfl⟩ | ⟨k, ⟨c, bl, h⟩, rfl⟩) | ⟨p, h, rfl⟩) | ⟨n, h, rfl⟩)
    · exact .lapse h
    · exact .wait h
    · exact .report h
    · exact .filter h
  · rintro (⟨h⟩ | ⟨h⟩ | ⟨h⟩ | ⟨h⟩)
    · exact .inl (.inl (.inl ⟨_, ⟨_, h⟩, rfl⟩))
    · exact .inl (.inl (.inr ⟨_, ⟨_, _, h⟩, rfl⟩))
    · exact .inl (.inr ⟨_, h, rfl⟩)
    · exact .inr ⟨_, h, rfl⟩

theorem nodup_dueExpiries (s : State) : s.dueExpiries.Nodup := by
  have h1 : s.dueLapses.Nodup := nodup_allSlots.filter _
  have h2 : s.dueWaits.Nodup := nodup_allSlots.filter _
  have h3 : s.dueReports.Nodup := (show allArms.Nodup by decide).filter _
  have h4 : s.dueFilters.Nodup := (List.nodup_finRange 8).filter _
  unfold State.dueExpiries
  simp only [List.nodup_append, List.mem_append, List.mem_map]
  refine ⟨⟨⟨h1.map fun _ _ h => by injection h, h2.map fun _ _ h => by injection h, ?_⟩,
    h3.map fun _ _ h => by injection h, ?_⟩, h4.map fun _ _ h => by injection h, ?_⟩
  · rintro _ ⟨k, _, rfl⟩ _ ⟨j, _, rfl⟩; nofun
  · rintro _ (⟨k, _, rfl⟩ | ⟨k, _, rfl⟩) _ ⟨j, _, rfl⟩ <;> nofun
  · rintro _ ((⟨k, _, rfl⟩ | ⟨k, _, rfl⟩) | ⟨k, _, rfl⟩) _ ⟨j, _, rfl⟩ <;> nofun

/-! ### A millisecond -/

theorem sameResets_tick (s : State) : SameResets s s.tick := ⟨by simp [State.tick], by simp [State.tick]⟩

/-- What holds after the tick and outlasts each expiry holds after the millisecond. -/
theorem millisecond_induction {P : State → Prop} (s : State) (tick : P s.tick)
    (lapse : ∀ t k, P t → P (t.lapseSlot k)) (wait : ∀ t k, P t → P (t.expireWait k))
    (report : ∀ t p, P t → P (t.expireReportTimer p)) (filter : ∀ t n, P t → P (t.expireFilter n)) :
    P s.millisecond := by
  have fold : ∀ {α : Type} (f : State → α → State), (∀ t a, P t → P (f t a)) →
      ∀ (l : List α) (t : State), P t → P (l.foldl f t) := by
    intro α f hf l
    induction l with
    | nil => exact fun _ h => h
    | cons a l ih => exact fun t h => ih _ (hf t a h)
  exact fold _ filter _ _ (fold _ report _ _ (fold _ wait _ _ (fold _ lapse _ _ tick)))

/-- A millisecond in which no expiry is due is the tick alone. -/
theorem millisecond_eq_tick {s : State} (h : ∀ i, ¬ ExpiryDue s i) : s.millisecond = s.tick := by
  have hl : s.dueLapses = [] :=
    List.eq_nil_iff_forall_not_mem.2 fun k hk => have ⟨_, hc⟩ := (mem_dueLapses s k).1 hk; h _ (.lapse hc)
  have hw : s.dueWaits = [] :=
    List.eq_nil_iff_forall_not_mem.2 fun k hk => have ⟨_, _, hc⟩ := (mem_dueWaits s k).1 hk; h _ (.wait hc)
  have hr : s.dueReports = [] :=
    List.eq_nil_iff_forall_not_mem.2 fun p hp => h _ (.report ((mem_dueReports s p).1 hp))
  have hf : s.dueFilters = [] :=
    List.eq_nil_iff_forall_not_mem.2 fun n hn => h _ (.filter ((mem_dueFilters s n).1 hn))
  simp only [State.millisecond, State.takeExpiries, hl, hw, hr, hf, List.foldl_nil]

theorem TakenInTurn.append {is js : List Instr} {s m t : State} (h : TakenInTurn is s m) (h' : TakenInTurn js m t) :
    TakenInTurn (is ++ js) s t := by
  induction h with
  | done s => exact h'
  | next he _ ih => exact .next he (ih h')

/-- The events of a list, each the effect `f` of its command, are taken in turn outside reset. -/
theorem takenInTurn_foldl {α : Type} {f : State → α → State} {cmd : α → Instr}
    (he : ∀ a s, exec (cmd a) s = takeEvent (fun t => f t a) s) (hr : ∀ s a, SameResets s (f s a)) :
    ∀ (l : List α) (s : State), s.inReset = false →
      TakenInTurn (l.map cmd) s (l.foldl f s) ∧ (l.foldl f s).inReset = false := by
  intro l
  induction l with
  | nil => exact fun s hs => ⟨.done s, hs⟩
  | cons a l ih =>
    intro s hs
    have hn : (f s a).inReset = false := (hr s a).inReset.trans hs
    exact ⟨.next ((he a s).trans (takeEvent_next hs _)) (ih _ hn).1, (ih _ hn).2⟩

/-- The expiries due in `due` are taken in turn, each by the command that it is. -/
theorem takeExpiries_inTurn (due : State) {s : State} (hs : s.inReset = false) :
    TakenInTurn due.dueExpiries s (due.takeExpiries s) := by
  have h1 := takenInTurn_foldl (f := State.lapseSlot) (cmd := .lapse) (fun _ _ => rfl) sameResets_lapseSlot
    due.dueLapses s hs
  have h2 := takenInTurn_foldl (f := State.expireWait) (cmd := .waitExpiry) (fun _ _ => rfl) sameResets_expireWait
    due.dueWaits _ h1.2
  have h3 := takenInTurn_foldl (f := State.expireReportTimer) (cmd := .reportTimerExpiry) (fun _ _ => rfl)
    sameResets_expireReportTimer due.dueReports _ h2.2
  have h4 := takenInTurn_foldl (f := State.expireFilter) (cmd := .filterTimerExpiry) (fun _ _ => rfl)
    sameResets_expireFilter due.dueFilters _ h3.2
  exact ((h1.1.append h2.1).append h3.1).append h4.1

/-- A millisecond outside reset: the tick, and after it the expiries that were due before it (R1, R43). -/
theorem millisecond_inTurn {s : State} (hs : s.inReset = false) : TakenInTurn s.dueExpiries s.tick s.millisecond :=
  takeExpiries_inTurn s ((sameResets_tick s).inReset.trans hs)

end Sys2Proof.Machine
end

