-- ==== Sys2Proof/Tests/Slice0.lean ====
section
/-! SUPPORT. Tests of single steps, whose expected results come from the spec's rules and worked cases, and for each
statement with hypotheses a witness: concrete states and operands that meet them. -/

namespace Sys2Proof.Tests

open Sys2Proof.Machine

/-! One test is evaluated after another, so that the whole package compiles in the memory that its check allows. -/
set_option Elab.async false

/-! ### WellFormed refuses ill-formed commands -/

theorem test_unknownKind_defined_on_arm : (Instr.unknownKind (.arm .a) 0x09).wellFormed = false := by decide

theorem test_unknownKind_defined_on_cell : (Instr.unknownKind .cell 0x1D).wellFormed = false := by decide

theorem test_setModeRun_target_config : (Instr.setModeRun 0).wellFormed = false := by decide

/-! ### Frames written out byte by byte from sections 9.5 and 9.6

The last byte of each is R176's CRC, worked out by a program of a few lines outside this package. -/

/-- A frame's bytes, with `n` zeros in front of its last byte. -/
def padded (front : List Byte) (n : Nat) (last : Byte) : List Byte := front ++ List.replicate n 0 ++ [last]

theorem test_decode_report :
    decodeFrame (.arm .a)
      (padded [0x03, 0x01, 0xB0, 0x04, 0xB8, 0xF2, 0x2C, 0x01, 0x58, 0x02] 5 0x5C) =
    .report .a 1 1200 (BitVec.ofInt 16 (-3400)) 300 600 := by decide +kernel

theorem test_decode_claim :
    decodeFrame (.arm .b)
      [0x04, 0x01, 0x50, 0x14, 0x9C, 0x18, 0x1C, 0x0C, 0x68, 0x10, 0x00, 0x00, 0x84, 0x03, 0x00, 0xEA] =
    .claim .b 1 ⟨5200, 6300, 3100, 4200, 0, 900⟩ := by decide +kernel

theorem test_decode_release :
    decodeFrame (.arm .a) (padded [0x05, 0x00, 0x05, 0x03] 11 0xD2) = .release .a 5 3 := by decide +kernel

theorem test_decode_wrong_crc : decodeFrame (.arm .a) (padded [0x05, 0x00, 0x05, 0x03] 11 0xD3) = .frameFailed (.arm .a) := by
  decide +kernel

theorem test_decode_unknown_kind :
    decodeFrame (.arm .a) (padded [0x0A] 14 0x4E) = .unknownKind (.arm .a) 0x0A := by decide +kernel

theorem test_decode_short : decodeFrame .cell (List.replicate 31 0) = .frameFailed .cell := by decide +kernel

theorem test_decode_loadCal :
    decodeFrame .cell
      (padded [0x03, 0x00, 0x6D, 0x37, 0x00, 0x20, 0xB8, 0x0B, 0x70, 0x17, 0x64, 0x00, 0x96, 0x00, 0x50] 16 0x60) =
    .loadCal 0 14189 8192 3000 6000 100 150 80 := by decide +kernel

theorem test_decode_loadProfile :
    decodeFrame .cell (padded [0x04, 0x01, 0x01, 0x40, 0x1F, 0x0C, 0x00, 0xDC, 0x05] 22 0x17) =
    .loadProfile 1 1 8000 12 1500 := by decide +kernel

theorem test_decode_loadTiming :
    decodeFrame .cell (padded [0x05, 0x00, 0x04, 0x32, 0xC8, 0x64, 0x00, 0x08, 0x08] 22 0xE2) =
    .loadTiming 4 50 200 100 8 8 := by decide +kernel

theorem test_decode_setLine :
    decodeFrame .cell (padded [0x06, 0x02, 0x04, 0x01, 0x0A] 26 0x5E) = .setLine 2 4 1 10 := by decide +kernel

theorem test_decode_mapFill :
    decodeFrame .cell
      (padded [0x08, 0x02, 0x00, 0x0E, 0xFF, 0x11, 0x00, 0x00, 0xFF, 0x1F, 0x00, 0x00, 0xFF, 0x07] 17 0xE3) =
    .mapFill 2 ⟨3584, 4607, 0, 8191, 0, 2047⟩ := by decide +kernel

theorem test_decode_setModeRun : decodeFrame .cell (padded [0x02, 0x01] 29 0x30) = .setModeRun 1 := by decide +kernel

theorem test_decode_groupSet : decodeFrame .cell (padded [0x0C, 0x02, 0x01] 28 0x47) = .groupSet 2 1 := by decide +kernel

theorem test_decode_purgeClaim :
    decodeFrame .cell (padded [0x11, 0x00, 0x05, 0x03] 27 0xD2) = .purgeClaim 5 3 := by decide +kernel

theorem test_decode_setOut : decodeFrame .cell (padded [0x15, 0x00, 0x03, 0x01] 27 0xF0) = .setOut 3 1 := by decide +kernel

theorem test_decode_clearEvents :
    decodeFrame .cell (padded [0x19, 0x00, 0x80, 0x01] 27 0xB6) = .clearEvents 0x0180 := by decide +kernel

/-- The reset replies (R179): bytes 0 to 14, or 0 to 30, are 0. -/
theorem test_reset_replies :
    State.reset.replyBytes (.arm .b) = List.replicate 15 0 ++ [0x90] ∧
    State.reset.replyBytes .cell = List.replicate 31 0 ++ [0x27] := by decide +kernel

/-! ### Arithmetic, from the worked cases of section 1.9 and R147 -/

def calA : Calibration := { c := 14189, s := 8192, ox := 3000, oy := 6000, oz := 100, rxy := 150, rz := 80, loaded := true }

theorem test_worked_case_arm_a :
    toolPoint calA 1200 (-3400) 300 = { x := 5739, y := 3656, z := 400 } ∧
    stoppingDistance { decel := 8000, react := 12, cap := 1500 } 600 = 297 ∧
    sweptBox calA { x := 5739, y := 3656, z := 400 } 297 = ⟨5292, 6186, 3209, 4103, 23, 777⟩ ∧ calA.valid = true := by
  decide +kernel

theorem test_limit_cases :
    stoppingDistance { decel := 2000, react := 255, cap := 4095 } 4095 = 4095 ∧
    brakingTerm { decel := 2000, react := 255, cap := 4095 } 4095 = 41923 ∧
    roundQ14 (-40960) = -3 ∧ roundQ14 40960 = 3 ∧ saturate 32767 = 16383 := by decide +kernel

theorem test_bin_cut_row_three :
    (Box.binCut ⟨7940, 8260, 2240, 2560, -80, 120⟩ = some ⟨7940, 8191, 2240, 2560, 0, 120⟩) ∧
    Box.binCut ⟨8240, 8560, 2240, 2560, -80, 120⟩ = none := by decide +kernel

/-! ### States for the tests and the witnesses -/

/-- The state that a command leaves. -/
def after (i : Instr) (s : State) : State :=
  match exec i s with
  | .next t => t
  | _ => s

def answer (i : Instr) (p : Arm) (s : State) : Result := ((after i s).link p).reply.result

def cellAnswer (i : Instr) (s : State) : Result := (after i s).cell.reply.result

/-- A report wholly outside the bin. -/
def outside : LastReport :=
  { swept := ⟨-5100, -4900, -100, 100, -100, 100⟩, binPart := none
    verdict := { place := .outside, intrusion := false, overspeed := false } }

/-- Arm A stands inside its OCCUPIED claim in slot 3. -/
def within3 : LastReport :=
  { swept := ⟨1040, 1060, 7500, 7600, 100, 200⟩, binPart := some ⟨1040, 1060, 7500, 7600, 100, 200⟩
    verdict := { place := .contained, intrusion := false, overspeed := false } }

def reported : ReportRecord := { ReportRecord.reset with last := some outside, fresh := true }

def running : Guard := { Guard.reset with state := .run, reportTimer := some 8 }

def stopped : Guard :=
  { state := .stopped, causes := { CauseSet.empty with supervisor := true }, resumeRequested := false,
    stopAcknowledged := false, reportTimer := some 8 }

def lost : Guard := { Guard.reset with state := .lost, causes := { CauseSet.empty with link := true } }

/-- Device RUN, both arms DETACHED with a fresh report OUTSIDE. -/
def idle : State := { State.reset with mode := .run, records := { a := reported, b := reported } }

/-- Both arms in RUN. -/
def both : State := { idle with guards := { a := running, b := running } }

def boxA : ClaimData := { owner := .a, cls := .normal, box := ⟨3000, 4500, 2000, 5000, 0, 900⟩ }

def boxB : ClaimData := { owner := .b, cls := .normal, box := ⟨4400, 5800, 3000, 6000, 0, 900⟩ }

def farA (x : Int) : ClaimData := { owner := .a, cls := .normal, box := ⟨x, x + 100, 7000, 8191, 0, 2047⟩ }

/-- Section 3.6's contention, with every claim state: slot 0 GRANTED to arm A with no time left, slot 1 WAITING for
arm B behind it with none left, slot 2 RELEASING and slot 3 OCCUPIED for arm A. -/
def busy : State :=
  { (((both.setBody 0 (.granted boxA 0)).setBody 1 (.waiting boxB 0 { slots := [0], groups := [] })).setBody 2
      (.releasing (farA 0))).setBody 3 (.occupied (farA 1000)) with waitList := [1] }

/-- Both arms STOPPED. -/
def halted (s : State) : State := { s with guards := { a := stopped, b := stopped } }

/-- Arm A's guard controller record replaced. -/
def withA (s : State) (g : Guard) : State := s.setGuard .a g

/-- Line 0 with a function, polarity ACTIVE_HIGH, its pin high, filtered inactive and its filter timer run out. -/
def rising (f : LineFunction) (s : State) : State :=
  s.setLine 0 { Line.resetAt .high with func := f, filtered := false, filterTimer := some 0 }

/-- Line 0 with a function, its pin low, filtered active and its filter timer run out. -/
def falling (f : LineFunction) (s : State) : State :=
  s.setLine 0 { Line.resetAt .low with func := f, filtered := true, filterTimer := some 0 }

def raw (b : Box) : RawBox :=
  { xlo := BitVec.ofInt 16 b.xlo, xhi := BitVec.ofInt 16 b.xhi, ylo := BitVec.ofInt 16 b.ylo
    yhi := BitVec.ofInt 16 b.yhi, zlo := BitVec.ofInt 16 b.zlo, zhi := BitVec.ofInt 16 b.zhi }

/-! ### Single steps: the arm links -/

theorem test_nop_in_config : answer (.nop .a) .a State.reset = .ok := by decide +kernel

theorem test_nop_takes_notice :
    ((after (.nop .b) (both.queueNotice .b { kind := .granted, slot := 7, gen := 2 })).link .b).reply.notice =
      some { kind := .granted, slot := 7, gen := 2 } := by decide +kernel

theorem test_attach : (after (.attach .a) idle).armState .a = .run := by decide +kernel

theorem test_attach_in_config : answer (.attach .a) .a State.reset = .refusedMode := by decide +kernel

theorem test_detach : (after (.detach .b) both).armState .b = .detached := by decide +kernel

theorem test_detach_with_claims : answer (.detach .a) .a busy = .refusedState := by decide +kernel

theorem test_report_not_attached :
    ((after (.report .a 1 (BitVec.ofInt 16 (-5000)) 0 0 60000) idle).record .a).pending = true := by decide +kernel

theorem test_report_marks_exit :
    (after (.report .a 0 (BitVec.ofInt 16 (-5000)) 0 0 0) busy).slot 2 = { gen := 1, body := .free } := by decide +kernel

theorem test_claim_granted : answer (.claim .a 0 (raw boxA.box)) .a both = .granted := by decide +kernel

theorem test_claim_waiting :
    (after (.claim .b 0 (raw boxB.box)) (both.setBody 0 (.granted boxA 500))).body 1 =
      .waiting boxB 2000 { slots := [0], groups := [] } := by decide +kernel

theorem test_release_serves_wait : (after (.release .a 0 0) busy).body 1 = .granted boxB 500 := by decide +kernel

theorem test_release_releasing : answer (.release .a 2 0) .a busy = .releasing := by decide +kernel

theorem test_cancel : (after (.cancel .b 1 0) busy).slot 1 = { gen := 1, body := .free } := by decide +kernel

theorem test_cancel_granted : answer (.cancel .a 0 0) .a busy = .refusedState := by decide +kernel

theorem test_query : ((after (.query .a 0 0) (busy.setBody 0 (.granted boxA 499))).link .a).reply.data =
    .query .granted .normal 50 := by decide +kernel

theorem test_query_not_owner : answer (.query .a 1 0) .a busy = .notOwner := by decide +kernel

theorem test_list : ((after (.list .a 1) busy).link .a).reply.data =
    .list 3 [{ slot := 2, state := .releasing, gen := 0 }, { slot := 3, state := .occupied, gen := 0 }] := by decide +kernel

theorem test_ackstop_completes :
    (after (.ackstop .a) (withA both { stopped with resumeRequested := true })).guard .a = running := by decide +kernel

theorem test_unknownKind : answer (.unknownKind (.arm .a) 0x0A) .a State.reset = .unknownKind := by decide +kernel

theorem test_frameFailed_at_15 :
    ((after (.frameFailed (.arm .a)) (both.setLink .a { both.link .a with errors := 15 })).link .a).errors = 15 := by
  decide +kernel

/-! ### Single steps: the Cell Controller Link -/

theorem test_cellNop : (after .cellNop both).cell.reply.mode = .run := by decide +kernel

theorem test_ident : (after .ident State.reset).cell.reply.data = .identity := by decide +kernel

theorem test_setModeRun_uncalibrated : (after (.setModeRun 1) State.reset).cell.reply.data = .calBad .a := by decide +kernel

theorem test_setModeRun_bad : cellAnswer (.setModeRun 2) State.reset = .badArg := by decide +kernel

theorem test_setModeConfig : (after .setModeConfig (halted busy)).slot 3 = { gen := 1, body := .free } := by decide +kernel

theorem test_loadCal_clamped :
    ((after (.loadCal 1 (BitVec.ofInt 16 (-16384)) 0 8000 2000 100 1500 60) State.reset).cal.b.rxy) = 1023 := by decide +kernel

theorem test_loadProfile : (after (.loadProfile 0 1 499 256 4096) State.reset).profiles.a.reduced =
    { decel := 500, react := 255, cap := 4095 } := by decide +kernel

theorem test_loadTiming : (after (.loadTiming 9 40 0 150 12 17) State.reset).timing =
    { reportCode := 7, entrySteps := 40, waitSteps := 1, clearance := 150, quota := { a := 12, b := 16 } } := by decide +kernel

theorem test_setLine_takes_level_at_once : (after (.setLine 2 4 1 10) State.reset).estopActive = true := by decide +kernel

theorem test_setLine_in_run : cellAnswer (.setLine 2 4 1 10) both = .refusedMode := by decide +kernel

theorem test_setGeometry : (after (.setGeometry 2) State.reset).keepOut.geometry = .g16 := by decide +kernel

theorem test_mapFill : (after (.mapFill 1 (raw ⟨255, 256, 0, 0, 0, 0⟩)) State.reset).keepOut.cells =
    [(0, .g1), (1, .g1)] := by decide +kernel

theorem test_mapClear : (after .mapClear { State.reset with keepOut := { KeepOut.reset with cells := [(7, .g2)] } }).keepOut =
    KeepOut.reset := by decide +kernel

theorem test_mapCursor : ((after (.mapCursor 5000) State.reset).cell.mapCursor) = 4095 := by decide +kernel

theorem test_mapRead_wraps :
    (after .mapRead { State.reset with cell := { CellLink.reset with mapCursor := 4064 } }).cell.mapCursor = 32 := by
  decide +kernel

theorem test_groupSet : (after (.groupSet 2 1) State.reset).cell.reply.data =
    .groups { g1 := false, g2 := true, g3 := false } { g1 := false, g2 := true, g3 := false } := by decide +kernel

theorem test_groupSet_revokes :
    (after (.groupSet 1 1) { busy with keepOut := { KeepOut.reset with cells := [(269, .g1)] } }).body 0 = .free := by
  decide +kernel

theorem test_forceProfile : ((after (.forceProfile 1 2) both).record .b).forced = some .reduced := by decide +kernel

theorem test_stop : (after (.stop 1) both).armState .b = .stopped := by decide +kernel

theorem test_resume : (after (.resume 0) (withA both { stopped with stopAcknowledged := true })).armState .a = .run := by
  decide +kernel

theorem test_purgeArm : (after (.purgeArm 0) (halted busy)).cell.reply.data = .purged 3 := by decide +kernel

theorem test_purgeClaim : cellAnswer (.purgeClaim 0 0) busy = .refusedState := by decide +kernel

/-- R118: a purge of the claim that contains the bin part leaves ESCAPED, and CONTAINED where a GRANTED claim contains it
too. -/
theorem test_purgeClaim_rejudges :
    let inside := halted ((both.setBody 3 (.occupied (farA 1000))).setRecord .a { reported with last := some within3 })
    ((after (.purgeClaim 3 0) inside).record .a).last =
      some { within3 with verdict := { within3.verdict with place := .escaped } } ∧
    ((after (.purgeClaim 3 0) (inside.setBody 4 (.granted (farA 1000) 500))).record .a).last = some within3 := by
  decide +kernel

theorem test_setCursor : (after (.setCursor 24) both).cell.claimCursor = 23 := by decide +kernel

theorem test_readClaim_wraps :
    (after .readClaim { both with cell := { CellLink.reset with claimCursor := 23 } }).cell.claimCursor = 0 := by decide +kernel

theorem test_readClaim_bytes :
    (claimRecordBytes 1 (busy.slot 1) (busy.waitPosition 1)).length = 24 ∧
    (claimRecordBytes 1 (busy.slot 1) (busy.waitPosition 1)).getD 19 0 = 0x01 := by decide +kernel

theorem test_readArm : cellAnswer (.readArm 2) both = .badArg := by decide +kernel

theorem test_setOut : (after (.setOut 3 1) both).cell.reply.data =
    .outputs [true, false, false, false, false, false, false, false] := by decide +kernel

theorem test_toggleOut : ((after (.toggleOut 0x80) both).line 7).out = true := by decide +kernel

theorem test_readLines :
    ((after .readLines (rising .generalOut both)).cell.reply.data.bytes).take 4 = [0x00, 0x00, 0x0A, 0x00] := by decide +kernel

theorem test_readEvents : (after .readEvents State.reset).cell.reply.data = .events 0x8000 0xFFF0 := by decide +kernel

theorem test_clearEvents_persists :
    ((after (.clearEvents 0xFFFF) ((halted both).flagStop .a)).events.sticky.stop.a) = true := by decide +kernel

theorem test_setMask : (after (.setMask 0x7FFF) State.reset).alertLow = true := by decide +kernel

theorem test_readCounters : cellAnswer .readCounters both = .ok := by decide +kernel

theorem test_clearCounters :
    ((after (.clearCounters 0x04) (after (.frameFailed .cell) both)).cell.errors) = 0 := by decide +kernel

theorem test_setAccEnable : (after (.setAccEnable 8) both).events.haltMs.b.enabled = true := by decide +kernel

/-! ### Single steps: timers, lines and resets -/

theorem test_lapse : (after (.lapse 0) busy).slot 0 = { gen := 1, body := .free } := by decide +kernel

theorem test_waitExpiry :
    ((after (.waitExpiry 1) busy).link .b).queue = [{ kind := .waitExpired, slot := 1, gen := 0 }] := by decide +kernel

theorem test_reportTimerExpiry :
    (after (.reportTimerExpiry .b) (busy.setGuard .b { running with reportTimer := some 0 })).waitList = [] := by decide +kernel

theorem test_rawLevelChange_starts_filter :
    ((after (.rawLevelChange 0 .high) State.reset).line 0).filterTimer = some 2 := by decide +kernel

theorem test_filterTimerExpiry_estop :
    (after (.filterTimerExpiry 0) (rising .estopIn both)).guard .b =
      { running with state := .stopped, causes := { CauseSet.empty with estop := true } } := by decide +kernel

theorem test_accumulatorStep :
    (after .accumulatorStep (after (.setAccEnable 2) busy)).events.waitMs.b.value = 1 := by decide +kernel

/-- R1's latest moment: a lapse timer with no time left before a millisecond expires at that millisecond, and so does
the report timer of a running arm, but one that this millisecond brings to 0 runs on. -/
theorem test_accumulatorStep_expires :
    ((after .accumulatorStep busy).slot 0 = { gen := 1, body := .free }) ∧
    (after .accumulatorStep (withA both { running with reportTimer := some 0 })).armState .a = .lost ∧
    (after .accumulatorStep (withA both { running with reportTimer := some 1 })).armState .a = .run := by decide +kernel

theorem test_resetnAssert : (after .resetnAssert both).permitHigh .a = false := by decide +kernel

theorem test_resetnRelease : after .resetnRelease (after .resetnAssert both) = State.reset := by decide +kernel

theorem test_supply : (after .supplyBelowPowerOnThreshold both).inReset = true := by decide +kernel

theorem test_powerOnReset : after .powerOnReset (after .supplyBelowPowerOnThreshold both) = State.reset := by decide +kernel

/-! ### Witnesses: the machine -/

theorem witness_StepTakesFrontCommand : State.reset.pending = [] := rfl

theorem witness_ResetHoldsPart :
    (after .resetnAssert both).inReset = true ∧ Instr.nop .a ≠ .resetnAssert ∧ Instr.nop .a ≠ .resetnRelease ∧
    Instr.nop .a ≠ .powerOnReset ∧ Instr.nop .a ≠ .supplyBelowPowerOnThreshold ∧
    ∀ n l, Instr.nop .a ≠ .rawLevelChange n l := by
  refine ⟨by decide +kernel, by decide, by decide, by decide, by decide, nofun⟩

theorem witness_ResetEnds :
    (after .supplyBelowPowerOnThreshold both).supplyLow = true ∧ (after .resetnAssert both).resetnLow = true ∧
    (after .resetnAssert both).supplyLow = false ∧ (after .supplyBelowPowerOnThreshold both).resetnLow = false := by
  decide +kernel

/-! ### Witnesses: coordinates and boxes -/

theorem witness_BoxTestsAndBinCut :
    Box.wellFormed ⟨0, 0, 0, 0, 0, 0⟩ = true ∧ Box.binCut ⟨-1, -1, 0, 0, 0, 0⟩ = none ∧
    Box.wellFormed ⟨-1, -1, 0, 0, 0, 0⟩ = true ∧
    Box.binCut ⟨-1, 8192, 0, 8191, 2047, 2048⟩ = some ⟨0, 8191, 0, 8191, 2047, 2047⟩ := by decide +kernel

/-- Two boxes 50 dmm apart on one axis conflict under a clearance of 50, and not under one of 49. -/
theorem test_conflict_at_the_gap :
    Box.wellFormed ⟨0, 99, 0, 99, 0, 99⟩ = true ∧ Box.wellFormed ⟨149, 200, 0, 0, 0, 0⟩ = true ∧
    Box.conflicts 50 ⟨0, 99, 0, 99, 0, 99⟩ ⟨149, 200, 0, 0, 0, 0⟩ = true ∧
    Box.conflicts 49 ⟨0, 99, 0, 99, 0, 99⟩ ⟨149, 200, 0, 0, 0, 0⟩ = false := by decide +kernel

theorem witness_RoundingToNearest :
    (0 : Int) ≤ 0 ∧ within (-16384) 16384 (-16384) ∧ within (-16384) 16384 16384 ∧ within (-32768) 32767 (-32768) ∧
    within (-32768) 32767 32767 := by
  unfold within; omega

theorem witness_StoppingDistance :
    Profile.inRange { decel := 500, react := 255, cap := 4095 } ∧
    Profile.inRange { decel := 65535, react := 0, cap := 0 } ∧ 0 < 4095 ∧ 4095 ≤ 4095 := by
  unfold Profile.inRange; decide

theorem witness_SaturationKeepsBinPart :
    Calibration.inRange { c := -16384, s := 16384, ox := 32767, oy := -32768, oz := 0, rxy := 1023, rz := 0, loaded := true } ∧
    within (-32768) 32767 (-32768) ∧ within (-32768) 32767 32767 ∧ 4095 ≤ 4095 := by
  unfold Calibration.inRange within; decide

theorem witness_CellsTileTheBin :
    { State.reset with keepOut := { KeepOut.reset with cells := [(0, .g1), (4095, .g3)] } }.MapCanonical ∧
    binVolume.holds 8191 0 2047 ∧ Box.wellFormed ⟨0, 8191, 0, 0, 2047, 2047⟩ = true ∧
    Box.containedIn ⟨0, 8191, 0, 0, 2047, 2047⟩ binVolume = true ∧ 4095 < 4096 := by
  refine ⟨rfl, ?_⟩
  unfold Box.holds within
  decide

/-! ### Witnesses: frames -/

theorem witness_FrameRoundTrip :
    (Instr.unknownKind .cell 0x1E).wellFormed = true ∧
    (∃ bytes, encodeFrame (.unknownKind .cell 0x1E) = some (.cell, bytes)) ∧
    Instr.unknownKind .cell 0x1E ≠ .frameFailed .cell := ⟨by decide, ⟨_, rfl⟩, by decide⟩

/-- A frame one byte short, one with a wrong CRC, one of a kind that is not defined and one of a kind that is. -/
theorem witness_FrameJudgement :
    (List.replicate 15 (0 : Byte)).length < (Link.arm .a).frameSize ∧
    byteAt (padded [0x0A] 14 0x4F) 15 ≠ crc8 ((padded [0x0A] 14 0x4F).take 15) ∧
    byteAt (padded [0x0A] 14 0x4E) 15 = crc8 ((padded [0x0A] 14 0x4E).take 15) ∧
    (Link.arm .a).kindDefined 0x0A = false ∧ (padded [0x0A] 14 0x4E).length = 16 ∧
    byteAt (padded [0x08, 0x04] 13 0xBE) 15 = crc8 ((padded [0x08, 0x04] 13 0xBE).take 15) ∧
    (Link.arm .a).kindDefined 0x08 = true := by decide +kernel

/-- Each layout at the ends of its fields. -/
theorem witness_ReplyByteLayouts :
    ArmData.Fits .empty ∧ ArmData.Fits (.report outside.verdict 65535) ∧ ArmData.Fits (.handle 23 15) ∧
    ArmData.Fits (.query .waiting .urgent 255) ∧
    ArmData.Fits (.list 255 (List.replicate 4 { slot := 23, state := .releasing, gen := 15 })) ∧
    CellData.Fits .identity ∧ CellData.Fits (.calBad .b) ∧ CellData.Fits (.cellsTouched 65535) ∧
    CellData.Fits (.mapCodes (List.replicate 64 (some .g3))) ∧
    CellData.Fits (.groups KeepOut.reset.flags KeepOut.reset.flags) ∧ CellData.Fits (.purged 255) ∧
    CellData.Fits (.outputs (List.replicate 8 true)) ∧ CellData.Fits (.events 0xFFFF 0xFFFF) := by
  simp [ArmData.Fits, CellData.Fits]

theorem witness_ReplyByteLayouts_records :
    CellData.Fits (.claimRecord 1 { gen := 15, body := .waiting boxB 65535 { slots := [0], groups := [] } } 255) ∧
    CellData.Fits (.claimRecord 23 { gen := 0, body := .free } 0) ∧ CellData.Fits (.armRecord running reported) ∧
    CellData.Fits (.armRecord Guard.reset ReportRecord.reset) ∧
    CellData.Fits (.lines
      (List.replicate 8 { raw := .high, filtered := true, func := .generalOut, out := true }) true) ∧
    CellData.Fits (.counters [255, 0, 15] (List.replicate 4 { value := 16777215, enabled := true })) := by
  refine ⟨?_, ?_, ?_, ?_, ?_, ?_⟩
  · simp [CellData.Fits, SlotBody.claim, SlotBody.remaining, boxB, Box.inFields, within]
  · simp [CellData.Fits, SlotBody.claim, SlotBody.remaining]
  · simp [CellData.Fits, reported, outside, Box.inFields, within]
  · simp [CellData.Fits, ReportRecord.reset]
  · simp [CellData.Fits]
  · simp [CellData.Fits]

theorem witness_not_in_reset :
    State.reset.inReset = false ∧ State.reset.mode = .config ∧ both.inReset = false ∧ both.mode = .run ∧
    idle.inReset = false ∧ busy.inReset = false ∧ busy.mode = .run := by decide +kernel

/-! ### Witnesses: arm requests -/

theorem witness_NopAndUnknownKind : 0x09 < (0x0A : Byte).toNat ∧ 0x1D < (0x1E : Byte).toNat := by decide

theorem witness_ArmRequestsTurnedAway :
    (Instr.ackstop .a).wellFormed = true ∧ frameContent (.ackstop .a) = some (.arm .a, [0x09]) ∧
    (0x09 : Byte).toNat ≤ 0x09 ∧ (0x09 : Byte) ≠ 0x00 ∧ (0x09 : Byte) ≠ 0x03 ∧
    (withA both lost).armState .a = .lost ∧ (withA both lost).mode = .run ∧ (withA both lost).inReset = false := by
  decide +kernel

/-- ATTACH taken, refused for its arm state, and refused by each of the later checks. -/
theorem witness_AttachEntersRun :
    (idle.armState .a = .detached ∧ (idle.record .a).fresh = true ∧ (idle.record .a).last = some outside ∧
      outside.verdict.place = .outside ∧ outside.verdict.overspeed = false ∧ idle.estopActive = false) ∧
    both.armState .a ≠ .detached ∧ (idle.clearFresh .a).armState .a = .detached ∧
    ((idle.clearFresh .a).record .a).fresh = false ∧
    ((idle.setRecord .a ReportRecord.reset).record .a).last = none ∧
    (after (.filterTimerExpiry 0) (rising .estopIn idle)).estopActive = true := by decide +kernel

theorem witness_DetachLeavesRun :
    both.armState .a = .run ∧ both.countOf .a = 0 ∧ idle.armState .a ≠ .run ∧ busy.countOf .a ≠ 0 := by decide +kernel

theorem running_fits : Guard.Fits running := ⟨rfl, rfl, rfl, rfl⟩

theorem stopped_fits : Guard.Fits stopped := ⟨by decide, rfl⟩

theorem lost_fits : Guard.Fits lost := ⟨rfl, rfl, rfl, rfl⟩

/-- One state of each arm state, and STOPPED with the handshake complete. -/
theorem witness_ReportReachesGuard :
    (idle.guard .a).Fits ∧ (idle.guard .a).state = .detached ∧ (both.guard .a).Fits ∧ (both.guard .a).state = .run ∧
    ((withA both stopped).guard .a).Fits ∧ ((withA both stopped).guard .a).state = .stopped ∧
    ((withA both lost).guard .a).Fits ∧ ((withA both lost).guard .a).state = .lost ∧
    Guard.Fits { stopped with resumeRequested := true, stopAcknowledged := true } :=
  ⟨⟨rfl, rfl, rfl, rfl⟩, rfl, running_fits, rfl, stopped_fits, rfl, lost_fits, rfl, ⟨by decide, rfl⟩⟩

/-- A wait list of one entry is exact where just that slot waits. -/
theorem exact_of_one (s : State) (k : Fin 24) (hl : s.waitList = [k])
    (hb : ∀ j, (s.body j).waitingClaim.isSome = decide (j = k)) : s.WaitListExact := by
  have hk : ∀ j c, (s.body j).waitingClaim = some c → j = k := fun j c h => by
    have := hb j; rw [h] at this; exact of_decide_eq_true this.symm
  refine ⟨by rw [hl]; exact List.nodup_singleton k, fun j => ?_, fun i j c d hi hj _ => ?_, ?_⟩
  · rw [hl, hb]; simp
  · rw [hk i c hi, hk j d hj]
  · rw [hl]; exact List.pairwise_singleton _ k

theorem busy_exact : busy.WaitListExact := exact_of_one _ 1 rfl (by decide +kernel)

theorem halted_exact : (halted busy).WaitListExact := exact_of_one _ 1 rfl (by decide +kernel)

theorem witness_ReportMarksEntryAndExit : busy.inReset = false ∧ busy.mode = .run ∧ busy.WaitListExact :=
  ⟨rfl, rfl, busy_exact⟩

/-- The boundary of each check of CLAIM: a class of 2, a box out of order, a box one dmm outside the bin, a quota met
just, and no FREE slot. -/
theorem witness_ClaimTurnedAway_checks :
    idle.armState .a = .detached ∧ (withA both lost).armState .a = .lost ∧ both.armState .a = .run ∧
    1 < (2 : Byte).toNat ∧ (boxOf (raw ⟨1, 0, 0, 0, 0, 0⟩)).wellFormed = false ∧
    (boxOf (raw ⟨8192, 8192, 0, 0, 0, 0⟩)).binCut = none ∧
    (boxOf (raw boxA.box)).wellFormed = true ∧ (boxOf (raw boxA.box)).binCut = some boxA.box ∧
    { busy with timing := { Timing.reset with quota := { a := 3, b := 8 } } }.countOf .a = 3 ∧
    (busy.countOf .a < busy.timing.quota.get .a) ∧
    ∀ k, (both.mapBodies fun _ _ => .occupied boxB).body k ≠ .free := by decide +kernel

/-- A second CLAIM of arm B while its first one waits. -/
theorem witness_ClaimTurnedAway_busy :
    Admitted busy .b 0 (raw ⟨4400, 4400, 3000, 3000, 0, 0⟩)
      { owner := .b, cls := .normal, box := ⟨4400, 4400, 3000, 3000, 0, 0⟩ } 4 ∧
    (busy.screen .b ⟨4400, 4400, 3000, 3000, 0, 0⟩ (busy.aheadOfNew .normal)).isEmpty = false ∧
    busy.hasWaiting .b = true :=
  ⟨⟨.inl (by decide +kernel), rfl, by decide, by decide, by decide +kernel, by decide +kernel, by decide +kernel,
    by decide +kernel⟩, by decide +kernel, by decide +kernel⟩

/-- The cycle of section 3.6: arm A asks for space that arm B holds while arm B waits for arm A's. -/
def crossed : State := busy.setBody 4 (.occupied { owner := .b, cls := .normal, box := ⟨6000, 7000, 0, 1000, 0, 900⟩ })

def crossing : ClaimData := { owner := .a, cls := .urgent, box := ⟨6500, 6600, 0, 100, 0, 900⟩ }

theorem witness_ClaimTurnedAway_cycle :
    Admitted crossed .a 1 (raw crossing.box) crossing 5 ∧ crossed.hasWaiting .a = false ∧
    (crossed.screen .a crossing.box (crossed.aheadOfNew .urgent)).isEmpty = false ∧
    CycleStands crossed .a (crossed.screen .a crossing.box (crossed.aheadOfNew .urgent)) :=
  ⟨⟨.inl (by decide +kernel), rfl, by decide, by decide, by decide +kernel, by decide +kernel, by decide +kernel,
    by decide +kernel⟩, by decide +kernel, by decide +kernel, by decide +kernel,
    ⟨1, boxB, 0, { slots := [0], groups := [] }, 0, by decide +kernel, by decide, by decide, by decide +kernel⟩⟩

theorem witness_ClaimKept_granted :
    Admitted both .a 0 (raw boxA.box) boxA 0 ∧ (both.screen .a boxA.box (both.aheadOfNew .normal)).isEmpty = true :=
  ⟨⟨.inl (by decide +kernel), rfl, by decide, by decide, by decide +kernel, by decide +kernel, by decide +kernel,
    by decide +kernel⟩, by decide +kernel⟩

/-- Arm A asks for space that arm B holds, and no claim waits. -/
def blocked : State := both.setBody 0 (.granted boxB 500)

theorem witness_ClaimKept_waiting :
    Admitted blocked .a 0 (raw boxA.box) boxA 1 ∧
    (blocked.screen .a boxA.box (blocked.aheadOfNew .normal)).isEmpty = false ∧ blocked.hasWaiting .a = false ∧
    ¬ CycleStands blocked .a (blocked.screen .a boxA.box (blocked.aheadOfNew .normal)) ∧ blocked.WaitListExact := by
  have hn : ∀ j, (blocked.body j).waitingClaim = none := by decide +kernel
  refine ⟨⟨.inl (by decide +kernel), rfl, by decide, by decide, by decide +kernel, by decide +kernel,
    by decide +kernel, by decide +kernel⟩, by decide +kernel, by decide +kernel, ?_, List.nodup_nil, fun j => ?_,
    fun i j c d hi => ?_, List.Pairwise.nil⟩
  · rintro ⟨_, j, w, left, wb, i, hj, _⟩
    have := hn j
    rw [hj] at this
    cases this
  · rw [hn]; simp [blocked, both, idle, State.reset]
  · rw [hn] at hi; cases hi

theorem names_of {s : State} {slot gen : Byte} {k : Fin 24}
    (h : slot.toNat = k.val ∧ (s.body k).claim.isSome = true ∧ (s.slot k).gen.val = gen.toNat) :
    HandleNames s slot gen k := h

/-- Handles that name no claim: slot 24, and a gen of 16; and handles of arm A's claims in slots 0, 2 and 3 and of arm
B's in slot 1. -/
theorem witness_handles :
    (∀ k, ¬ HandleNames busy 24 0 k) ∧ (∀ k, ¬ HandleNames busy 0 16 k) ∧
    (HandleNames busy 0 0 0 ∧ (busy.body 0).claim = some boxA ∧ (busy.body 0).state = .granted) ∧
    (HandleNames busy 1 0 1 ∧ (busy.body 1).claim = some boxB ∧ (busy.body 1).state = .waiting) ∧
    (HandleNames busy 2 0 2 ∧ (busy.body 2).claim = some (farA 0) ∧ (busy.body 2).state = .releasing) ∧
    (HandleNames busy 3 0 3 ∧ (busy.body 3).claim = some (farA 1000) ∧ (busy.body 3).state = .occupied) ∧
    busy.armState .a ≠ .lost ∧ busy.armState .b ≠ .lost := by
  unfold HandleNames
  decide +kernel

/-- The two clauses of RELEASE past the handle: the last bin part outside the claim, and inside it. -/
theorem witness_ReleaseAndCancel :
    partIntersects (busy.binPart .a) boxA.box = false ∧ busy.WaitListExact ∧
    partIntersects ((busy.setRecord .a { reported with last := some { outside with binPart := some ⟨4500, 4600, 5000, 5100, 900, 950⟩ } }).binPart .a)
      boxA.box = true := ⟨by decide +kernel, busy_exact, by decide +kernel⟩

/-- The handshake complete with the resume check passed, and with no fresh report. -/
theorem witness_ResumeHandshake :
    MayResume (withA both stopped) .a ∧ (withA both stopped).armState .a = .stopped ∧
    ¬ MayResume ((withA both stopped).clearFresh .a) .a ∧ both.armState .a ≠ .stopped ∧ 1 < (2 : Byte).toNat ∧
    (0 : Byte).toNat = armCode .a ∧ (1 : Byte).toNat = armCode .b :=
  ⟨⟨by decide +kernel, by decide +kernel, outside, by decide +kernel, .inl rfl, rfl, rfl⟩, by decide +kernel,
    fun h => absurd h.2.1 (by decide +kernel), by decide +kernel, by decide, rfl, rfl⟩

/-! ### Witnesses: cell controller commands -/

theorem witness_SettingsRefusedInRun :
    (Instr.mapCursor 0).wellFormed = true ∧ frameContent (.mapCursor 0) = some (.cell, 0x0A :: [0, 0, 0]) ∧
    0x03 ≤ (0x0A : Byte).toNat ∧ (0x0A : Byte).toNat ≤ 0x0A ∧ 0x03 ≤ (0x03 : Byte).toNat := by decide +kernel

def committed : Calibration := { Calibration.reset with c := 16384, loaded := true }

/-- Both records pass the commit check, arm A's alone, and none; the last by one beyond R11's tolerance. -/
theorem witness_SetModeRunCommits :
    (Commits { State.reset with cal := { a := committed, b := committed } } .a ∧
      Commits { State.reset with cal := { a := committed, b := committed } } .b) ∧
    ¬ Commits State.reset .a ∧ ¬ Commits { State.reset with cal := { a := committed, b := Calibration.reset } } .b ∧
    1 < (2 : Byte).toNat := by unfold Commits; decide +kernel

theorem witness_SetModeConfigTearsDown :
    both.armState .a = .run ∧ (halted busy).mode = .run ∧ ∀ p, (halted busy).armState p ≠ .run :=
  ⟨by decide +kernel, rfl, fun p => by cases p <;> decide +kernel⟩

theorem witness_LoadsReplaceSettings :
    1 < (2 : Byte).toNat ∧ (0 : Byte).toNat = armCode .a ∧ (1 : Byte).toNat = armCode .b := by decide

theorem reset_quiet : State.reset.ConfigQuiet := fun _ =>
  ⟨by decide +kernel, rfl, fun p => by cases p <;> exact ⟨rfl, rfl, rfl, rfl⟩⟩

/-- Each argument of SET_LINE at its last value, and one beyond it. -/
theorem witness_SetLineWritesRecord :
    State.reset.ConfigQuiet ∧ 7 < (8 : Byte).toNat ∧ 10 < (11 : Byte).toNat ∧ 1 < (2 : Byte).toNat ∧
    (7 : Byte).toNat = (7 : Fin 8).val ∧ (10 : Byte).toNat = LineFunction.generalOut.code ∧
    (1 : Byte).toNat = (if Polarity.activeLow = .activeLow then 1 else 0) ∧
    (0 : Byte).toNat = (if Polarity.activeHigh = .activeLow then 1 else 0) := ⟨reset_quiet, by decide +kernel⟩

theorem witness_GeometryAndMapClear : 2 < (3 : Byte).toNat ∧ (2 : Byte).toNat ≤ 2 := by decide

theorem witness_MapFillSetsTouchedCells :
    State.reset.MapCanonical ∧ 3 < (4 : Byte).toNat ∧ (3 : Byte).toNat = mapCode (some .g3) ∧
    (boxOf (raw ⟨1, 0, 0, 0, 0, 0⟩)).wellFormed = false ∧ (boxOf (raw ⟨8191, 8192, 0, 0, 0, 0⟩)).wellFormed = true ∧
    (boxOf (raw ⟨8191, 8192, 0, 0, 0, 0⟩)).binCut = some ⟨8191, 8191, 0, 0, 0, 0⟩ ∧
    (boxOf (raw ⟨8192, 8192, 0, 0, 0, 0⟩)).binCut = none := ⟨rfl, by decide +kernel⟩

theorem witness_CursorsAndTheirReads :
    State.reset.mode = .config ∧ (1 : Fin 24) ∈ busy.waitList ∧ (0 : Fin 24) ∉ busy.waitList := by decide +kernel

theorem witness_ForcedProfileAndOutputs :
    2 < (3 : Byte).toNat ∧ (2 : Byte).toNat = forcedCode (some .reduced) ∧ (0 : Byte).toNat = forcedCode none := by decide

theorem witness_StopHoldsArm :
    both.armState .b = .run ∧ (halted both).armState .b = .stopped ∧ idle.armState .b = .detached ∧
    (withA both lost).armState .a = .lost := by decide +kernel

theorem witness_PurgesRetire :
    both.armState .a = .run ∧ (halted busy).armState .a ≠ .run ∧ (halted busy).WaitListExact ∧
    HandleNames (halted busy) 0 0 0 ∧ ((halted busy).body 0).claim = some boxA ∧
    (∀ k, ¬ HandleNames (halted busy) 24 0 k) :=
  ⟨by decide +kernel, by decide +kernel, halted_exact, by unfold HandleNames; decide +kernel, by decide +kernel,
    by unfold HandleNames; decide +kernel⟩

/-! ### Witnesses: groups -/

/-- A group byte of 0 and of 4, and a value byte of 2; a flag written as it stands; a flag written in CONFIG. -/
theorem witness_GroupSetWritesFlag :
    (0 : Byte).toNat = 0 ∧ 3 < (4 : Byte).toNat ∧ 1 < (2 : Byte).toNat ∧ (1 : Byte).toNat = mapCode (some .g1) ∧
    (3 : Byte).toNat = mapCode (some .g3) ∧ (false || both.groupLineActive .g1) = both.groupActive .g1 ∧
    State.reset.mode = .config := by decide +kernel

/-- Group 1's flag is set. -/
def guarded (s : State) : State := { s with keepOut := { s.keepOut with flags := { s.keepOut.flags with g1 := true } } }

theorem rising_exact (f : LineFunction) : (rising f busy).WaitListExact :=
  exact_of_one _ 1 rfl (by intro j; revert j; show ∀ j, (busy.body j).waitingClaim.isSome = decide (j = 1); decide +kernel)

theorem falling_exact (f : LineFunction) : (falling f busy).WaitListExact :=
  exact_of_one _ 1 rfl (by intro j; revert j; show ∀ j, (busy.body j).waitingClaim.isSome = decide (j = 1); decide +kernel)

/-- An activation by GROUP_SET, by the expiry of a filter timer and by a raw level change. -/
theorem witness_GroupActivation :
    busy.groupActive .g1 = false ∧ busy.WaitListExact ∧
    ((rising (.guardIn .g1) busy).groupActive .g1 = false ∧ (rising (.guardIn .g1) busy).WaitListExact ∧
      ∃ s0, FilteredChange (rising (.guardIn .g1) busy) 0 (.filterTimerExpiry 0) s0 ∧ s0.groupActive .g1 = true) ∧
    ∃ s0, FilteredChange (both.setLine 0 { Line.resetAt .low with func := .guardIn .g1, debounce := 0 }) 0
      (.rawLevelChange 0 .high) s0 ∧ s0.groupActive .g1 = true :=
  ⟨by decide +kernel, busy_exact,
    ⟨by decide +kernel, rising_exact _, _, .expiry (by decide +kernel) (by decide +kernel), by decide +kernel⟩,
    _, .raw .high (by decide +kernel) (by decide +kernel) (by decide +kernel) (by decide +kernel), by decide +kernel⟩

theorem witness_GroupDeactivation :
    (guarded busy).groupActive .g1 = true ∧ (guarded busy).groupLineActive .g1 = false ∧ (guarded busy).WaitListExact ∧
    (falling (.guardIn .g1) busy).groupActive .g1 = true ∧ (falling (.guardIn .g1) busy).WaitListExact ∧
    ∃ s0, FilteredChange (falling (.guardIn .g1) busy) 0 (.filterTimerExpiry 0) s0 ∧ s0.groupActive .g1 = false :=
  ⟨by decide +kernel, by decide +kernel, exact_of_one _ 1 rfl (by decide +kernel), by decide +kernel, falling_exact _,
    _, .expiry (by decide +kernel) (by decide +kernel), by decide +kernel⟩

/-! ### Witnesses: timers and lines -/

theorem witness_LapseAndWaitExpiry :
    busy.body 0 = .granted boxA 0 ∧ busy.body 1 = .waiting boxB 0 { slots := [0], groups := [] } ∧
    busy.WaitListExact ∧ (∀ c, (busy.setBody 0 (.granted boxA 1)).body 0 ≠ .granted c 0) ∧
    ∀ c bl, (busy.setBody 1 (.waiting boxB 1 { slots := [0], groups := [] })).body 1 ≠ .waiting c 0 bl := by
  refine ⟨by decide +kernel, by decide +kernel, busy_exact, fun c => ?_, fun c bl => ?_⟩
  · rw [State.body_setBody_self]; simp
  · rw [State.body_setBody_self]; simp

/-- Each of the four timers run out, and the clauses of those that run on; no expiry due at all in `both`. -/
theorem witness_MillisecondCounts :
    busy.inReset = false ∧ busy.body 0 = .granted boxA 0 ∧
    busy.body 1 = .waiting boxB 0 { slots := [0], groups := [] } ∧
    ((withA both { running with reportTimer := some 0 }).guard .a).reportTimer = some 0 ∧
    (withA both { running with reportTimer := some 0 }).armState .a = .run ∧
    ((rising .estopIn both).line 0).filterTimer = some 0 ∧
    both.dueLapses = [] ∧ both.dueWaits = [] ∧ both.dueReports = [] ∧ both.dueFilters = [] := by decide +kernel

/-- Arm A's report timer has run out with no claim waiting, and arm B's with one. -/
theorem witness_ReportTimerExpiryLosesArm :
    ((withA busy { running with reportTimer := some 0 }).guard .a).reportTimer = some 0 ∧
    (withA busy { running with reportTimer := some 0 }).armState .a = .run ∧
    (∀ k, (withA busy { running with reportTimer := some 0 }).holdsWaiting .a k = false) ∧
    ((busy.setGuard .b { stopped with reportTimer := some 0 }).guard .b).reportTimer = some 0 ∧
    (busy.setGuard .b { stopped with reportTimer := some 0 }).armState .b = .stopped ∧
    (busy.setGuard .b { stopped with reportTimer := some 0 }).holdsWaiting .b 1 = true ∧
    (busy.setGuard .b { stopped with reportTimer := some 0 }).WaitListExact ∧
    (busy.guard .a).reportTimer ≠ some 0 :=
  ⟨by decide +kernel, by decide +kernel, by decide +kernel, by decide +kernel, by decide +kernel, by decide +kernel,
    exact_of_one _ 1 rfl (by decide +kernel), by decide +kernel⟩

/-- Each clause of the filter: no change, the level returned, a change with a debounce, an output line, a filtered
change of a line that feeds no block and of a GUARD_IN line whose group another source holds active, and a timer with
time left. -/
theorem witness_FilterFollowsRawLevel :
    (State.reset.line 0).func.code ≤ 4 ∧ (State.reset.line 0).wire ≠ .high ∧
    decide (Level.high = .high ↔ (State.reset.line 0).polarity = .activeHigh) ≠ (State.reset.line 0).filtered ∧
    0 < (State.reset.line 0).debounce ∧
    decide (Level.low = .high ↔ ((rising .unused both).line 0).polarity = .activeHigh) = ((rising .unused both).line 0).filtered ∧
    5 ≤ ((rising .generalOut both).line 0).func.code ∧
    (∃ s0, FilteredChange (rising .unused both) 0 (.filterTimerExpiry 0) s0) ∧
    (∃ s0, FilteredChange (guarded (rising (.guardIn .g1) both)) 0 (.filterTimerExpiry 0) s0 ∧
      s0.groupActive .g1 = (guarded (rising (.guardIn .g1) both)).groupActive .g1) ∧
    (State.reset.line 0).filterTimer ≠ some 0 :=
  ⟨by decide +kernel, by decide +kernel, by decide +kernel, by decide +kernel, by decide +kernel, by decide +kernel,
    ⟨_, .expiry (by decide +kernel) (by decide +kernel)⟩,
    ⟨_, .expiry (by decide +kernel) (by decide +kernel), by decide +kernel⟩, by decide +kernel⟩

/-- The e-stop becoming active, becoming inactive, and held by a second line. -/
theorem witness_EstopStopsAndReleases :
    ((rising .estopIn both).estopActive = false ∧
      ∃ s0, FilteredChange (rising .estopIn both) 0 (.filterTimerExpiry 0) s0 ∧ s0.estopActive = true) ∧
    ((falling .estopIn (halted both)).estopActive = true ∧
      ∃ s0, FilteredChange (falling .estopIn (halted both)) 0 (.filterTimerExpiry 0) s0 ∧ s0.estopActive = false) ∧
    ∃ s0, FilteredChange ((falling .estopIn (halted both)).setLine 1 { Line.resetAt .high with func := .estopIn }) 0
      (.filterTimerExpiry 0) s0 ∧
      s0.estopActive = ((falling .estopIn (halted both)).setLine 1 { Line.resetAt .high with func := .estopIn }).estopActive :=
  ⟨⟨by decide +kernel, _, .expiry (by decide +kernel) (by decide +kernel), by decide +kernel⟩,
    ⟨by decide +kernel, _, .expiry (by decide +kernel) (by decide +kernel), by decide +kernel⟩,
    _, .expiry (by decide +kernel) (by decide +kernel), by decide +kernel⟩

/-- A line of each output function. -/
theorem witness_OutputsFollowState :
    ((rising .generalOut both).line 0).func = .generalOut ∧ ((rising .alertMirror both).line 0).func = .alertMirror ∧
    ((rising (.permitMirror .a) both).line 0).func = .permitMirror .a ∧
    ((rising (.waitOut .b) busy).line 0).func = .waitOut .b ∧ 5 ≤ LineFunction.code (.permitMirror .a) ∧
    LineFunction.code .estopIn ≤ 4 ∧ (busy.hasWaiting .b = true) := by decide +kernel

/-! ### Witnesses: a state with every law -/

/-- `busy` with arm A inside a claim and arm A's release of slot 0 to be taken. -/
def crowded : State :=
  { busy.setRecord .a { reported with last := some within3 } with pending := [.release .a 0 0] }

theorem crowded_body (k : Fin 24) : crowded.body k =
    if k = 0 then .granted boxA 0
    else if k = 1 then .waiting boxB 0 { slots := [0], groups := [] }
    else if k = 2 then .releasing (farA 0)
    else if k = 3 then .occupied (farA 1000)
    else .free := by
  revert k; decide +kernel

theorem crowded_last (p : Arm) : (crowded.record p).last = some (if p = .a then within3 else outside) := by
  cases p <;> decide +kernel

theorem crowded_exact : crowded.WaitListExact := exact_of_one _ 1 rfl (by decide +kernel)

theorem crowded_apart : crowded.LiveApart := by
  intro j k c d hj hk hne
  rw [crowded_body] at hj hk
  have owner_a : ∀ {i : Fin 24} {e : ClaimData},
      (if i = 0 then SlotBody.granted boxA 0
        else if i = 1 then .waiting boxB 0 { slots := [0], groups := [] }
        else if i = 2 then .releasing (farA 0)
        else if i = 3 then .occupied (farA 1000)
        else .free).live = some e → e.owner = .a := by
    intro i e h
    split_ifs at h <;> simp [SlotBody.live] at h <;> subst h <;> rfl
  exact absurd (by rw [owner_a hj, owner_a hk]) hne

theorem crowded_boxes : crowded.BoxesInBin := by
  intro k c h
  rw [crowded_body] at h
  split_ifs at h <;> simp [SlotBody.claim] at h <;> subst h <;> decide +kernel

theorem crowded_blockers : crowded.BlockersExact := by
  intro k c left bl h
  rw [crowded_body] at h
  split_ifs at h with h0 h1
  all_goals cases h
  subst h1
  exact ⟨rfl, by decide +kernel⟩

theorem crowded_granted : crowded.GrantedClear := by
  intro _ k c left h
  rw [crowded_body] at h
  split_ifs at h
  all_goals cases h
  decide +kernel

theorem crowded_timers : crowded.TimersBounded := by
  refine ⟨fun k c left h => ?_, fun k c left bl h => ?_, fun p n h => ?_, fun n t h => ?_⟩
  · rw [crowded_body] at h
    split_ifs at h
    all_goals cases h
    exact Nat.zero_le _
  · rw [crowded_body] at h
    split_ifs at h
    all_goals cases h
    exact Nat.zero_le _
  · cases p <;> cases h <;> decide +kernel
  · have : ∀ n, (crowded.line n).filterTimer = none := by decide +kernel
    rw [this] at h; cases h

theorem crowded_verdicts : crowded.VerdictsKept := by
  intro p l _ h
  rw [crowded_last] at h
  cases p
  · cases h
    refine ⟨by decide +kernel, by decide, fun b hb _ => ?_⟩
    cases hb
    decide +kernel
  · cases h
    exact ⟨by decide +kernel, by decide, nofun⟩

theorem crowded_parts : crowded.PartsInBin := by
  intro p l h
  rw [crowded_last] at h
  cases p <;> cases h <;> (unfold within; decide +kernel)

theorem crowded_permits : crowded.PermitsHonest := by
  refine fun p _ => ⟨_, crowded_last p, by cases p <;> rfl, ?_⟩
  cases p
  · exact .inr ⟨_, rfl, by decide +kernel, by decide +kernel⟩
  · exact .inl rfl

theorem crowded_held : crowded.ContainingClaimHeld := by
  intro p b _ hb
  cases p
  · have : crowded.binPart .a = some ⟨1040, 1060, 7500, 7600, 100, 200⟩ := by decide +kernel
    rw [this] at hb
    cases hb
    exact ⟨3, farA 1000, .inl (by decide +kernel), rfl, by decide +kernel⟩
  · have : crowded.binPart .b = none := by decide +kernel
    rw [this] at hb
    cases hb

theorem crowded_entered : crowded.PlacesEntered := by
  intro p l b _ hl hb hp
  rw [crowded_last] at hl
  cases p <;> cases hl
  · cases hb
    exact ⟨3, farA 1000, .inl (by decide +kernel), rfl, by decide +kernel⟩
  · cases hp

theorem crowded_sound : crowded.Sound where
  settings := by
    refine ⟨fun p => ?_, fun p n => ?_, ?_, ?_⟩
    · cases p <;> (unfold Calibration.inRange within; decide +kernel)
    · cases p <;> cases n <;> (unfold Profile.inRange; decide +kernel)
    · refine ⟨by decide, by decide, by decide, by decide, by decide, fun p => ?_⟩
      cases p <;> decide +kernel
    · decide +kernel
  queues := fun p => by cases p <;> decide +kernel
  counters := ⟨fun p => by cases p <;> decide, by decide, fun p => by cases p <;> decide, fun p => by cases p <;> decide⟩
  map := rfl
  quiet := nofun
  guards := fun p => by cases p <;> exact running_fits
  boxes := crowded_boxes
  quota := fun p => by cases p <;> decide +kernel
  apart := crowded_apart
  waitList := crowded_exact
  blockers := crowded_blockers
  granted := crowded_granted
  detached := fun p => by cases p <;> exact nofun
  estop := fun h => absurd h (by decide +kernel)
  verdicts := crowded_verdicts
  clear := fun p _ => ⟨rfl, _, crowded_last p, by cases p <;> rfl, by cases p <;> decide +kernel⟩
  parts := crowded_parts
  timers := crowded_timers
  filters := fun _ => by decide +kernel
  records := fun p _ => by rw [crowded_last]; rfl
  replies := ⟨fun p => by cases p <;> exact trivial, trivial⟩
  permits := crowded_permits
  held := crowded_held
  entered := crowded_entered

/-- The premises of every statement about what a step keeps, with a step to take. -/
theorem witness_StepKeeps : crowded.Sound ∧ ∃ t, step crowded = .next t := ⟨crowded_sound, _, rfl⟩

end Sys2Proof.Tests
end

section
/-! PROOFS. The expiry of a claim's own timer and of an arm's report timer, where it is due and where it is not
(R63, R80, R96, R133): O46 and O47. -/

namespace Sys2Proof.Machine

/-! ### An expiry that is due, and one that is not -/

theorem exec_lapse {s : State} (h : s.inReset = false) (k : Fin 24) : exec (.lapse k) s = .next (s.lapseSlot k) :=
  takeEvent_next h fun t => t.lapseSlot k

theorem exec_waitExpiry {s : State} (h : s.inReset = false) (k : Fin 24) :
    exec (.waitExpiry k) s = .next (s.expireWait k) :=
  takeEvent_next h fun t => t.expireWait k

theorem exec_reportTimerExpiry {s : State} (h : s.inReset = false) (p : Arm) :
    exec (.reportTimerExpiry p) s = .next (s.expireReportTimer p) :=
  takeEvent_next h fun t => t.expireReportTimer p

theorem lapseSlot_due {s : State} {k : Fin 24} {c : ClaimData} (h : s.body k = .granted c 0) :
    s.lapseSlot k = s.flagLapse.retireAndRescreen [k] (some .lapsed) false := by
  unfold State.lapseSlot
  simp only [h]

theorem lapseSlot_not_due {s : State} {k : Fin 24} (h : ∀ c, s.body k ≠ .granted c 0) : s.lapseSlot k = s := by
  unfold State.lapseSlot
  split
  · next c hc => exact absurd hc (h c)
  · rfl

theorem expireWait_due {s : State} {k : Fin 24} {c : ClaimData} {bl : Blockers} (h : s.body k = .waiting c 0 bl) :
    s.expireWait k = s.flagWaitExpired.retireAndRescreen [k] (some .waitExpired) false := by
  unfold State.expireWait
  simp only [h]

theorem expireWait_not_due {s : State} {k : Fin 24} (h : ∀ c bl, s.body k ≠ .waiting c 0 bl) :
    s.expireWait k = s := by
  unfold State.expireWait
  split
  · next c bl hc => exact absurd hc (h c bl)
  · rfl

/-- Arm P's report timer has run its full time, and its expiry will act (R133). -/
def State.ReportDue (s : State) (p : Arm) : Prop :=
  (s.guard p).reportTimer = some 0 ∧ (s.armState p = .run ∨ s.armState p = .stopped)

theorem expireReportTimer_due {s : State} {p : Arm} (h : s.ReportDue p) : s.expireReportTimer p = s.enterLost p :=
  if_pos h

theorem expireReportTimer_not_due {s : State} {p : Arm} (h : ¬ s.ReportDue p) : s.expireReportTimer p = s := if_neg h

/-! ### A claim's own timer runs out -/

theorem TableFrame.updSticky (s : State) (f : StickyFlags → StickyFlags) : TableFrame s (s.updSticky f) :=
  ⟨rfl, rfl, rfl, rfl, rfl, rfl, rfl, rfl, rfl, rfl, rfl, rfl, rfl, rfl, fun _ => .refl _, fun _ => .refl _⟩

/-- An event flag set in front of an event of the table is the flag that the event's cause names. -/
theorem TableEvent.of_updSticky {s t : State} {ks : List (Fin 24)} {kind : Option NoticeKind} {r : Bool}
    {f : StickyFlags → StickyFlags} (hf : (f s.events.sticky).noticeLost = s.events.sticky.noticeLost)
    (h : TableEvent (s.updSticky f) t ks kind r id) : TableEvent s t ks kind r f where
  frame := (TableFrame.updSticky s f).trans h.frame
  retired := h.retired
  others := h.others
  decided := h.decided
  waitList := h.waitList
  notices q := by
    obtain ⟨gs, hnodup, hmem, hqueued⟩ := h.notices q
    have hflag : Queued s (s.updSticky f) q [] := .of_eq rfl (congrArg (·.get q) hf)
    exact ⟨gs, hnodup, hmem, hflag.trans hqueued⟩
  places := h.places
  sticky := h.sticky

theorem lapseSlot_event {s : State} {k : Fin 24} {c : ClaimData} (h : s.body k = .granted c 0)
    (hw : s.WaitListExact) :
    TableEvent s (s.lapseSlot k) [k] (some .lapsed) false fun f => { f with lapse := true } := by
  obtain ⟨hnodup, -⟩ := hw
  rw [lapseSlot_due h]
  exact .of_updSticky rfl (retireAndRescreen_event s.flagLapse [k] _ _ hnodup
    (.single (by rw [State.flagLapse_body, h]; rfl)) (List.cons_ne_nil _ _))

theorem expireWait_event {s : State} {k : Fin 24} {c : ClaimData} {bl : Blockers} (h : s.body k = .waiting c 0 bl)
    (hw : s.WaitListExact) :
    TableEvent s (s.expireWait k) [k] (some .waitExpired) false fun f => { f with waitExpired := true } := by
  obtain ⟨hnodup, -⟩ := hw
  rw [expireWait_due h]
  exact .of_updSticky rfl (retireAndRescreen_event s.flagWaitExpired [k] _ _ hnodup
    (.single (by rw [State.flagWaitExpired_body, h]; rfl)) (List.cons_ne_nil _ _))

/-- Settles O46: a lapse and a wait expiry that are due are the table's event of one retirement, and otherwise nothing
happens. -/
theorem lapseAndWaitExpiry : Obligations.LapseAndWaitExpiry := by
  intro k s hr
  refine ⟨fun c h hw => ⟨_, exec_lapse hr k, lapseSlot_event h hw⟩, fun h => ?_,
    fun c bl h hw => ⟨_, exec_waitExpiry hr k, expireWait_event h hw⟩, fun h => ?_⟩
  · rw [exec_lapse hr, lapseSlot_not_due h]
  · rw [exec_waitExpiry hr, expireWait_not_due h]

/-! ### A report timer runs out -/

/-- Arm P's entry to LOST but for the Claim Table's part in it (R133). -/
def State.lostOnly (s : State) (p : Arm) : State :=
  ((s.setGuard p
    { state := .lost, causes := { (s.guard p).causes with link := true }, resumeRequested := false,
      stopAcknowledged := false, reportTimer := none }).setRecord p { s.record p with fresh := false }).updSticky
    fun f => { f with lost := f.lost.set p true }

theorem enterLost_eq (s : State) (p : Arm) : s.enterLost p = (s.lostOnly p).cancelWaits p := rfl

/-- The table's part in an entry to LOST leaves the guard controllers alone (R89). -/
theorem guards_enterLost (s : State) (p : Arm) : (s.enterLost p).guards = (s.lostOnly p).guards :=
  (retireAndRescreen_frame (s.lostOnly p) ((s.lostOnly p).waitsOf p) (some .cancelled) false).guards

theorem mem_waitsOf (s : State) (p : Arm) (k : Fin 24) : k ∈ s.waitsOf p ↔ s.holdsWaiting p k = true := by
  simp [State.waitsOf]

theorem nodup_waitsOf (s : State) (p : Arm) : (s.waitsOf p).Nodup := nodup_allSlots.filter _

theorem waitsOf_eq_nil {s : State} {p : Arm} (h : ∀ k, s.holdsWaiting p k = false) : s.waitsOf p = [] :=
  List.filter_eq_nil_iff.2 fun k _ => by simp [h k]

/-- An arm's WAITING claim is its only one (R57). -/
theorem waitsOf_eq_singleton {s : State} {p : Arm} {k : Fin 24} (hw : s.WaitListExact)
    (hk : s.holdsWaiting p k = true) : s.waitsOf p = [k] := by
  obtain ⟨-, -, hone, -⟩ := hw
  have honly : ∀ j ∈ s.waitsOf p, j = k := by
    intro j hj
    obtain ⟨c, hc, hcp⟩ := (ownedBy_iff _ _).1 ((mem_waitsOf s p j).1 hj)
    obtain ⟨d, hd, hdp⟩ := (ownedBy_iff _ _).1 hk
    exact hone j k c d hc hd (hcp.trans hdp.symm)
  refine List.perm_singleton.1 ((List.perm_ext_iff_of_nodup (nodup_waitsOf s p) (List.nodup_singleton k)).2 fun j => ?_)
  rw [List.mem_singleton]
  exact ⟨honly j, fun e => e ▸ (mem_waitsOf s p k).2 hk⟩

theorem holdsWaiting_claim {s : State} {p : Arm} {k : Fin 24} (h : s.holdsWaiting p k = true) :
    (s.body k).claim.isSome = true := by
  obtain ⟨c, hc, -⟩ := (ownedBy_iff _ _).1 h
  rw [(claim_eq_some_iff s k c).2 (.inr ((waitingClaim_eq_some_iff s k c).1 hc))]
  rfl

/-- Entry to LOST cancels no claim where the arm waits for none (R96). -/
theorem enterLost_idle {s : State} {p : Arm} (h : ∀ k, s.holdsWaiting p k = false) :
    s.enterLost p = s.lostOnly p := by
  have hnone : (s.lostOnly p).waitsOf p = [] := waitsOf_eq_nil (s := s.lostOnly p) h
  rw [enterLost_eq]
  unfold State.cancelWaits
  rw [hnone]
  rfl

/-- Entry to LOST retires the arm's WAITING claim (R96). -/
theorem enterLost_event {s : State} {p : Arm} {k : Fin 24} (hw : s.WaitListExact) (hk : s.holdsWaiting p k = true) :
    TableEvent (s.lostOnly p) (s.enterLost p) [k] (some .cancelled) false id := by
  have hone : (s.lostOnly p).waitsOf p = [k] := waitsOf_eq_singleton (s := s.lostOnly p) hw hk
  have hclaim : ((s.lostOnly p).body k).claim.isSome = true := holdsWaiting_claim (s := s.lostOnly p) hk
  obtain ⟨hnodup, -⟩ := hw
  rw [enterLost_eq]
  unfold State.cancelWaits
  rw [hone]
  exact retireAndRescreen_event _ _ _ _ hnodup (.single hclaim) (List.cons_ne_nil _ _)

/-- Settles O47: the expiry is the entry to LOST, whose table event retires the one WAITING claim that the arm may
have. -/
theorem reportTimerExpiryLosesArm : Obligations.ReportTimerExpiryLosesArm := by
  intro p s hr
  refine ⟨fun ht ha hw => ?_, fun ht => ?_⟩
  · rw [exec_reportTimerExpiry hr, expireReportTimer_due ⟨ht, ha⟩]
    exact ⟨fun h => congrArg _ (enterLost_idle h), fun k hk => ⟨_, rfl, enterLost_event hw hk⟩⟩
  · rw [exec_reportTimerExpiry hr, expireReportTimer_not_due fun ⟨ht', _⟩ => ht ht']

end Sys2Proof.Machine
end

section
/-! PROOFS. What an event leaves done. A millisecond takes several expiries, one event after another, and what an
earlier one has done the later ones do not undo. -/

namespace Sys2Proof.Machine

/-- From s to t a FREE slot keeps its record, no slot begins to wait, a LOST arm stays LOST, and no filter timer
starts. -/
structure Outlasts (s t : State) : Prop where
  free : ∀ k, s.body k = .free → t.slot k = s.slot k
  settled : ∀ k, (s.body k).waitingClaim = none → (t.body k).waitingClaim = none
  lost : ∀ p, s.armState p = .lost → t.armState p = .lost
  filter : ∀ n, (t.line n).filterTimer = (s.line n).filterTimer ∨ (t.line n).filterTimer = none

theorem body_of_slot {s t : State} {k : Fin 24} (h : t.slot k = s.slot k) : t.body k = s.body k :=
  congrArg Slot.body h

theorem Outlasts.refl (s : State) : Outlasts s s :=
  ⟨fun _ _ => rfl, fun _ h => h, fun _ h => h, fun _ => .inl rfl⟩

theorem Outlasts.trans {s t u : State} (h : Outlasts s t) (h' : Outlasts t u) : Outlasts s u where
  free k hk := by
    have ht := h.free k hk
    exact (h'.free k ((body_of_slot ht).trans hk)).trans ht
  settled k hk := h'.settled k (h.settled k hk)
  lost p hp := h'.lost p (h.lost p hp)
  filter n := by
    rcases h'.filter n with hn | hn
    · rw [hn]; exact h.filter n
    · exact .inr hn

/-- A filter timer that has stopped stays stopped. -/
theorem Outlasts.filter_stopped {s t : State} (h : Outlasts s t) {n : Fin 8} (hn : (s.line n).filterTimer = none) :
    (t.line n).filterTimer = none := (h.filter n).elim (fun e => e.trans hn) fun e => e

/-- An event of the table outlasts what is done where it changes WAITING claims and frees slots alone. -/
theorem TableFrame.outlasts {s t : State} (h : TableFrame s t)
    (hslot : ∀ k, (s.body k).waitingClaim = none → t.slot k = s.slot k ∨ s.body k ≠ .free ∧ t.body k = .free) :
    Outlasts s t where
  free k hk := (hslot k (by rw [hk]; rfl)).resolve_right fun hf => hf.1 hk
  settled k hk := by
    rcases hslot k hk with he | ⟨-, hf⟩
    · rw [body_of_slot he]; exact hk
    · rw [hf]; rfl
  lost p hp := by
    unfold State.armState State.guard at hp ⊢
    rw [h.guards]; exact hp
  filter n := by
    unfold State.line
    rw [h.lines]; exact .inl rfl

/-- An event outside the table and the lines outlasts what is done where it leaves LOST arms alone. -/
theorem Outlasts.of_guards {s t : State} (hs : t.slots = s.slots) (hl : t.lines = s.lines)
    (hlost : ∀ p, s.armState p = .lost → t.armState p = .lost) : Outlasts s t where
  free k _ := by unfold State.slot; rw [hs]
  settled k hk := by rw [State.body_congr hs]; exact hk
  lost := hlost
  filter n := by unfold State.line; rw [hl]; exact .inl rfl

/-! ### The table's operations -/

theorem slot_rescreen_of_not_waiting (s : State) (k : Fin 24) (h : (s.body k).waitingClaim = none) :
    s.rescreen.slot k = s.slot k := by
  obtain ⟨-, -, -, hgens⟩ := rescreenFrom_frame s.waitList [] s
  have hgen : (s.rescreen.slot k).gen = (s.slot k).gen := hgens k
  have hbody : (s.rescreen.slot k).body = (s.slot k).body := body_rescreenFrom_of_not_waiting s.waitList [] s k h
  calc s.rescreen.slot k = ⟨(s.rescreen.slot k).gen, (s.rescreen.slot k).body⟩ := rfl
    _ = ⟨(s.slot k).gen, (s.slot k).body⟩ := by rw [hgen, hbody]

theorem outlasts_rescreen (s : State) : Outlasts s s.rescreen :=
  (rescreen_frame s).outlasts fun k hk => .inl (slot_rescreen_of_not_waiting s k hk)

theorem retire_of_claim_none {s : State} {k : Fin 24} (h : (s.body k).claim = none) (n : Option NoticeKind) (r : Bool) :
    s.retire k n r = s := by
  unfold State.retire
  rw [h]

theorem outlasts_retire (s : State) (k : Fin 24) (n : Option NoticeKind) (r : Bool) : Outlasts s (s.retire k n r) := by
  cases hc : (s.body k).claim with
  | none => rw [retire_of_claim_none hc]; exact .refl s
  | some c =>
    have hsome : (s.body k).claim.isSome = true := by rw [hc]; rfl
    refine (retire_frame s k n r).outlasts fun j _ => ?_
    by_cases hj : j = k
    · subst hj
      refine .inr ⟨fun hfree => ?_, by rw [body_retire s j j n r hsome, if_pos rfl]⟩
      rw [hfree] at hc
      cases hc
    · exact .inl (by rw [slot_retire s k j n r hsome, if_neg hj])

theorem outlasts_retireAll (n : Option NoticeKind) (r : Bool) (s : State) (ks : List (Fin 24)) :
    Outlasts s (s.retireAll ks n r) :=
  List.foldlRecOn ks _ (.refl s) fun t h k _ => h.trans (outlasts_retire t k n r)

theorem outlasts_retireAndRescreen (s : State) (ks : List (Fin 24)) (n : Option NoticeKind) (r : Bool) :
    Outlasts s (s.retireAndRescreen ks n r) := by
  unfold State.retireAndRescreen
  split
  · exact .refl s
  · exact (outlasts_retireAll n r s ks).trans (outlasts_rescreen _)

/-- The slots after the retirement of the claim in slot k with its re-screen, but for the claims that wait. -/
theorem slot_retireAndRescreen_single {s : State} {k j : Fin 24} (n : Option NoticeKind) (r : Bool)
    (hk : (s.body k).claim.isSome = true) (hj : (s.body j).waitingClaim = none ∨ j = k) :
    (s.retireAndRescreen [k] n r).slot j =
      if j = k then { gen := (s.slot k).gen + 1, body := .free } else s.slot j := by
  have hretire : (s.retireAll [k] n r).slot j =
      if j = k then { gen := (s.slot k).gen + 1, body := .free } else s.slot j := slot_retire s k j n r hk
  have hbody : ((s.retireAll [k] n r).body j).waitingClaim = none := by
    show ((s.retire k n r).body j).waitingClaim = none
    rw [body_retire s k j n r hk]
    split
    · rfl
    · next hne => exact hj.resolve_right hne
  exact (slot_rescreen_of_not_waiting _ j hbody).trans hretire

theorem outlasts_joinGroup (s : State) (g : Group) : Outlasts s (s.joinGroup g) := by
  refine (TableFrame.of_slots s (s.joinGroup g).slots s.waitList).outlasts fun k hk => .inl ?_
  show (s.joinGroup g).slot k = s.slot k
  unfold State.joinGroup
  rw [State.slot_mapBodies]
  cases hs : s.slot k with
  | mk gen body =>
    have hb : s.body k = body := congrArg Slot.body hs
    rw [hb] at hk ⊢
    cases body with
    | waiting c left bl => cases hk
    | _ => rfl

theorem outlasts_updSticky (s : State) (f : StickyFlags → StickyFlags) : Outlasts s (s.updSticky f) :=
  .of_guards rfl rfl fun _ h => h

theorem outlasts_tableActivate (s : State) (g : Group) : Outlasts s (s.tableActivate g) := by
  have hjoin : Outlasts s ((s.retireAll (s.revoked g) (some .revoked) false).joinGroup g) :=
    (outlasts_retireAll _ _ s _).trans (outlasts_joinGroup _ g)
  unfold State.tableActivate
  dsimp only
  split
  · exact hjoin
  · exact hjoin.trans ((outlasts_updSticky _ _).trans (outlasts_rescreen _))

/-! ### The guard controllers' operations -/

theorem outlasts_stopArm (s : State) (p : Arm) (c : StopCause) : Outlasts s (s.stopArm p c) := by
  have hframe := frame_stopArm s p c
  have hslots := congrArg State.slots hframe
  have hlines := congrArg State.lines hframe
  refine .of_guards hslots hlines fun q hq => ?_
  have hsame : (s.stopArm p c).guard q = s.guard q := by
    rw [guard_stopArm, if_neg]
    rintro ⟨rfl, h | h⟩ <;> rw [hq] at h <;> cases h
  unfold State.armState at hq ⊢
  rw [hsame]
  exact hq

theorem outlasts_resumeCheck (s : State) (p : Arm) : Outlasts s (s.resumeCheck p) := by
  obtain ⟨hother, hframe⟩ := frame_resumeCheck s p
  have hslots := congrArg State.slots hframe
  have hlines := congrArg State.lines hframe
  refine .of_guards hslots hlines fun q hq => ?_
  rcases eq_or_eq_other p q with rfl | rfl
  · rw [(guard_resumeCheck s q).2 fun h => by rw [hq] at h; cases h.1]
    exact hq
  · unfold State.armState at hq ⊢
    rw [hother]
    exact hq

theorem outlasts_keepIntrusion (s : State) (p : Arm) : Outlasts s (s.keepIntrusion p) := by
  have hframe := frame_keepIntrusion s p
  have hslots := congrArg State.slots hframe
  have hlines := congrArg State.lines hframe
  have hguards := congrArg State.guards hframe
  refine .of_guards hslots hlines fun q hq => ?_
  unfold State.armState State.guard at hq ⊢
  rw [show (s.keepIntrusion p).guards = s.guards from hguards]
  exact hq

theorem outlasts_guardActivate (s : State) (g : Group) (p : Arm) : Outlasts s (s.guardActivate g p) := by
  unfold State.guardActivate
  split
  · exact outlasts_stopArm s p _
  · exact .refl s

theorem outlasts_groupActivated (s : State) (g : Group) : Outlasts s (s.groupActivated g) := by
  unfold State.groupActivated
  split
  · refine .trans ?_ (outlasts_keepIntrusion _ _)
    refine .trans ?_ (outlasts_keepIntrusion _ _)
    refine .trans ?_ (outlasts_guardActivate _ _ _)
    exact (outlasts_tableActivate s g).trans (outlasts_guardActivate _ _ _)
  · exact .refl s

theorem outlasts_groupDeactivated (s : State) : Outlasts s s.groupDeactivated := by
  unfold State.groupDeactivated
  split
  · refine .trans ?_ (outlasts_resumeCheck _ _)
    refine .trans ?_ (outlasts_resumeCheck _ _)
    refine .trans ?_ (outlasts_keepIntrusion _ _)
    exact (outlasts_rescreen s).trans (outlasts_keepIntrusion _ _)
  · exact .refl s

theorem outlasts_groupEvent (s : State) (before : Bool) (g : Group) : Outlasts s (s.groupEvent before g) := by
  unfold State.groupEvent
  split
  · exact .refl s
  · split
    · exact outlasts_groupDeactivated s
    · exact outlasts_groupActivated s g

theorem outlasts_estopEvent (s : State) (before : Bool) : Outlasts s (s.estopEvent before) := by
  unfold State.estopEvent
  split
  · exact .refl s
  · split
    · exact (outlasts_resumeCheck _ _).trans (outlasts_resumeCheck _ _)
    · exact (outlasts_stopArm _ _ _).trans (outlasts_stopArm _ _ _)

/-- All that follows a change of a source, from the change on. -/
theorem outlasts_afterSources (s : State) (change : State → State) : Outlasts (change s) (s.afterSources change) :=
  (outlasts_groupEvent _ _ _).trans ((outlasts_groupEvent _ _ _).trans
    ((outlasts_groupEvent _ _ _).trans (outlasts_estopEvent _ _)))

/-! ### Each expiry takes its timer, and outlasts what is done -/

theorem outlasts_lapseSlot (s : State) (k : Fin 24) : Outlasts s (s.lapseSlot k) := by
  unfold State.lapseSlot
  split
  · exact (outlasts_updSticky s _).trans (outlasts_retireAndRescreen _ _ _ _)
  · exact .refl s

theorem outlasts_expireWait (s : State) (k : Fin 24) : Outlasts s (s.expireWait k) := by
  unfold State.expireWait
  split
  · exact (outlasts_updSticky s _).trans (outlasts_retireAndRescreen _ _ _ _)
  · exact .refl s

theorem armState_enterLost (s : State) (p q : Arm) :
    (s.enterLost p).armState q = if q = p then .lost else s.armState q := by
  calc (s.enterLost p).armState q = (s.lostOnly p).armState q := by
        unfold State.armState State.guard; rw [guards_enterLost]
    _ = if q = p then .lost else s.armState q := State.armState_setGuard s p q _

theorem outlasts_enterLost (s : State) (p : Arm) : Outlasts s (s.enterLost p) := by
  have hlost : Outlasts s (s.lostOnly p) := by
    refine .of_guards rfl rfl fun q hq => ?_
    show (s.setGuard p _).armState q = .lost
    rw [State.armState_setGuard]
    split
    · rfl
    · exact hq
  exact hlost.trans (outlasts_retireAndRescreen _ _ _ _)

theorem outlasts_expireReportTimer (s : State) (p : Arm) : Outlasts s (s.expireReportTimer p) := by
  unfold State.expireReportTimer
  split
  · exact outlasts_enterLost s p
  · exact .refl s

/-- The change of a line's filtered level, which stops its filter timer. -/
theorem outlasts_setLine_filtered (s : State) (n : Fin 8) (active : Bool) :
    Outlasts s (s.setLine n { s.line n with filtered := active, filterTimer := none }) where
  free _ _ := rfl
  settled _ h := h
  lost _ h := h
  filter m := by
    rw [State.line_setLine]
    split
    · exact .inr rfl
    · exact .inl rfl

theorem outlasts_expireFilter (s : State) (n : Fin 8) : Outlasts s (s.expireFilter n) := by
  unfold State.expireFilter
  split
  · exact (outlasts_setLine_filtered s n _).trans
      (outlasts_afterSources s fun t => t.setLine n { t.line n with filtered := _, filterTimer := none })
  · exact .refl s

/-- An expiry that is due stops the filter timer. -/
theorem expireFilter_stops {s : State} {n : Fin 8} (h : (s.line n).filterTimer = some 0) :
    ((s.expireFilter n).line n).filterTimer = none := by
  unfold State.expireFilter
  rw [if_pos h]
  refine (outlasts_afterSources s _).filter_stopped ?_
  rw [State.line_setLine_self]

end Sys2Proof.Machine
end

section
/-! PROOFS. The millisecond of the time base: its tick, and the expiries that it takes, each due in its turn and
outlasted by the later ones (R1, R43, R201): O50. -/

namespace Sys2Proof.Machine

/-! ### An expiry that is due waits for its turn, and is done in it -/

/-- A claim whose lapse timer has run its full time is retired by its own lapse, and stays through every other. -/
theorem slot_lapseSlot {s : State} {j : Fin 24} {c : ClaimData} (h : s.body j = .granted c 0) (k : Fin 24) :
    (s.lapseSlot k).slot j = if j = k then { gen := (s.slot k).gen + 1, body := .free } else s.slot j := by
  by_cases hk : ∃ d, s.body k = .granted d 0
  · obtain ⟨d, hd⟩ := hk
    rw [lapseSlot_due hd]
    exact slot_retireAndRescreen_single (s := s.flagLapse) _ _ (by rw [State.flagLapse_body, hd]; rfl)
      (.inl (by rw [State.flagLapse_body, h]; rfl))
  · have hne : j ≠ k := fun e => hk ⟨c, e ▸ h⟩
    rw [lapseSlot_not_due fun d hd => hk ⟨d, hd⟩, if_neg hne]

/-- The slot holds a claim whose wait timer has run its full time, or none that waits. -/
def SlotBody.WaitsOut (b : SlotBody) : Prop := (∃ c bl, b = .waiting c 0 bl) ∨ b.waitingClaim = none

theorem waitsOut_retire {s : State} {j : Fin 24} (h : (s.body j).WaitsOut) (k : Fin 24) (n : Option NoticeKind)
    (r : Bool) : ((s.retire k n r).body j).WaitsOut := by
  cases hc : (s.body k).claim with
  | none => rw [retire_of_claim_none hc]; exact h
  | some c =>
    rw [body_retire s k j n r (by rw [hc]; rfl)]
    split
    · exact .inr rfl
    · exact h

/-- A re-screen leaves a wait its timer, or ends it by a grant (R70, R71). -/
theorem BodyRescreened.waitsOut {entryMs : Nat} {b b' : SlotBody} (h : BodyRescreened entryMs b b')
    (hb : b.WaitsOut) : b'.WaitsOut := by
  rcases h with rfl | ⟨c, left, bl, rfl, ⟨bl', rfl⟩ | rfl⟩
  · exact hb
  · rcases hb with ⟨d, bd, hd⟩ | hd
    · cases hd; exact .inl ⟨c, bl', rfl⟩
    · cases hd
  · exact .inr rfl

theorem waitsOut_retireAndRescreen {s : State} {j : Fin 24} (h : (s.body j).WaitsOut) (ks : List (Fin 24))
    (n : Option NoticeKind) (r : Bool) : ((s.retireAndRescreen ks n r).body j).WaitsOut := by
  have hall : ((s.retireAll ks n r).body j).WaitsOut :=
    List.foldlRecOn (motive := fun t : State => (t.body j).WaitsOut) ks _ h fun _ ht k _ => waitsOut_retire ht k n r
  unfold State.retireAndRescreen
  split
  · exact h
  · exact (rescreenFrom_rescreened _ [] _ j).waitsOut hall

theorem waitsOut_lapseSlot {s : State} {j : Fin 24} (h : (s.body j).WaitsOut) (k : Fin 24) :
    ((s.lapseSlot k).body j).WaitsOut := by
  unfold State.lapseSlot
  split
  · exact waitsOut_retireAndRescreen (s := s.flagLapse) h _ _ _
  · exact h

theorem waitsOut_expireWait {s : State} {j : Fin 24} (h : (s.body j).WaitsOut) (k : Fin 24) :
    ((s.expireWait k).body j).WaitsOut := by
  unfold State.expireWait
  split
  · exact waitsOut_retireAndRescreen (s := s.flagWaitExpired) h _ _ _
  · exact h

theorem expireWait_settles {s : State} {k : Fin 24} {c : ClaimData} {bl : Blockers} (h : s.body k = .waiting c 0 bl) :
    ((s.expireWait k).body k).waitingClaim = none := by
  have hslot := slot_retireAndRescreen_single (s := s.flagWaitExpired) (j := k) (some .waitExpired) false
    (by rw [State.flagWaitExpired_body, h]; rfl) (.inr rfl)
  rw [if_pos rfl] at hslot
  rw [expireWait_due h]
  unfold State.body
  rw [hslot]
  rfl

theorem reportDue_congr {s t : State} {p : Arm} (h : t.guard p = s.guard p) : t.ReportDue p ↔ s.ReportDue p := by
  unfold State.ReportDue State.armState
  rw [h]

theorem guards_lapseSlot (s : State) (k : Fin 24) : (s.lapseSlot k).guards = s.guards := by
  unfold State.lapseSlot
  split
  · exact (retireAndRescreen_frame _ _ _ _).guards
  · rfl

theorem guards_expireWait (s : State) (k : Fin 24) : (s.expireWait k).guards = s.guards := by
  unfold State.expireWait
  split
  · exact (retireAndRescreen_frame _ _ _ _).guards
  · rfl

theorem guard_expireReportTimer_other {s : State} {p q : Arm} (h : q ≠ p) :
    (s.expireReportTimer p).guard q = s.guard q := by
  unfold State.expireReportTimer
  split
  · calc (s.enterLost p).guard q = (s.lostOnly p).guard q := congrArg (·.get q) (guards_enterLost s p)
      _ = s.guard q := (State.guard_setGuard s p q _).trans (if_neg h)
  · rfl

theorem reportDue_expireReportTimer {s : State} {p : Arm} (h : s.ReportDue p) (q : Arm) :
    (s.expireReportTimer q).ReportDue p ∨ (s.expireReportTimer q).armState p = .lost := by
  by_cases hq : p = q
  · subst hq
    rw [expireReportTimer_due h, armState_enterLost, if_pos rfl]
    exact .inr rfl
  · exact .inl ((reportDue_congr (guard_expireReportTimer_other hq)).2 h)

/-! ### The tick -/

theorem slot_tick (s : State) (k : Fin 24) : s.tick.slot k = { s.slot k with body := (s.body k).tick } := by
  have hslots : s.tick.slots = (s.mapBodies fun _ b => b.tick).slots := by simp only [State.tick]
  rw [← State.slot_mapBodies s fun _ b => b.tick]
  unfold State.slot
  rw [hslots]

theorem body_tick (s : State) (k : Fin 24) : s.tick.body k = (s.body k).tick := congrArg Slot.body (slot_tick s k)

theorem tickTimer_eq (t : Option Nat) : tickTimer t = t.map (· - 1) := by
  cases t <;> rfl

theorem guard_tick (s : State) (p : Arm) :
    s.tick.guard p = { s.guard p with reportTimer := (s.guard p).reportTimer.map (· - 1) } := by
  rw [← tickTimer_eq]
  cases p <;> rfl

theorem line_tick (s : State) (n : Fin 8) :
    s.tick.line n = { s.line n with filterTimer := (s.line n).filterTimer.map (· - 1) } := by
  have hlines : s.tick.lines =
      Vector.ofFn fun m => { s.line m with filterTimer := tickTimer (s.line m).filterTimer } := by
    simp only [State.tick]
  rw [← tickTimer_eq]
  unfold State.line at hlines ⊢
  rw [hlines]
  simp only [Fin.getElem_fin, Vector.getElem_ofFn]

theorem Accumulator.step_eq (a : Accumulator) (holds : Bool) :
    a.step holds =
      { a with value := if a.enabled = true ∧ holds = true then min (a.value + 1) 16777215 else a.value } := by
  unfold Accumulator.step
  simp only [Bool.and_eq_true]
  split <;> rfl

theorem waitMs_tick (s : State) (p : Arm) :
    s.tick.events.waitMs.get p = (s.events.waitMs.get p).step (s.hasWaiting p) := by
  cases p <;> rfl

theorem haltMs_tick (s : State) (p : Arm) :
    s.tick.events.haltMs.get p = (s.events.haltMs.get p).step (s.halted p) := by
  cases p <;> rfl

theorem halted_iff (s : State) (p : Arm) :
    s.halted p = true ↔ s.armState p = .stopped ∨ s.armState p = .lost := by
  simp [State.halted]

/-- The tick changes the four kinds of timer and the accumulators alone. -/
theorem frame_tick (s : State) :
    { s.tick with events := s.events, slots := s.slots, guards := s.guards, lines := s.lines } = s := by
  simp only [State.tick, State.mapBodies]

/-! ### The expiries that a millisecond takes -/

/-- A millisecond after its tick and its lapses. -/
def State.afterLapses (s : State) : State := s.dueLapses.foldl State.lapseSlot s.tick

/-- A millisecond after its wait expiries. -/
def State.afterWaits (s : State) : State := s.dueWaits.foldl State.expireWait s.afterLapses

/-- A millisecond after its report timers' expiries. -/
def State.afterReports (s : State) : State := s.dueReports.foldl State.expireReportTimer s.afterWaits

theorem millisecond_eq (s : State) : s.millisecond = s.dueFilters.foldl State.expireFilter s.afterReports := rfl

theorem outlasts_foldl {α : Type} {f : State → α → State} (hf : ∀ t a, Outlasts t (f t a)) (l : List α)
    (s : State) : Outlasts s (l.foldl f s) := List.foldlRecOn l f (.refl s) fun t h a _ => h.trans (hf t a)

theorem afterLapses_outlasts (s : State) : Outlasts s.tick s.afterLapses := outlasts_foldl outlasts_lapseSlot _ _

theorem afterWaits_outlasts (s : State) : Outlasts s.afterLapses s.afterWaits := outlasts_foldl outlasts_expireWait _ _

theorem afterReports_outlasts (s : State) : Outlasts s.afterWaits s.afterReports :=
  outlasts_foldl outlasts_expireReportTimer _ _

theorem millisecond_outlasts (s : State) : Outlasts s.afterReports s.millisecond :=
  outlasts_foldl outlasts_expireFilter _ _

/-- An event of a list that is due, and stays due or is done until its turn, is done after all of them. -/
theorem foldl_done {α : Type} {f : State → α → State} {Due Done : State → Prop} {a : α}
    (keeps : ∀ t b, Due t → Due (f t b) ∨ Done (f t b)) (takes : ∀ t, Due t → Done (f t a))
    (lasts : ∀ t b, Done t → Done (f t b)) :
    ∀ (l : List α), a ∈ l → ∀ s : State, Due s ∨ Done s → Done (l.foldl f s) := by
  intro l
  induction l with
  | nil => exact fun ha => nomatch ha
  | cons b l ih =>
    intro ha s h
    rcases List.mem_cons.1 ha with rfl | ha
    · exact List.foldlRecOn l f (h.elim (takes s) (lasts s a)) fun t ht c _ => lasts t c ht
    · exact ih ha _ (h.elim (keeps s b) fun hd => .inr (lasts s b hd))

/-- A claim whose lapse timer had run its full time is retired within the millisecond (R1, R80). -/
theorem millisecond_lapses {s : State} {k : Fin 24} {c : ClaimData} (h : s.body k = .granted c 0) :
    Retired s s.millisecond k := by
  have hlapsed : s.afterLapses.slot k = { gen := (s.slot k).gen + 1, body := .free } := by
    refine foldl_done (a := k) (Due := fun t : State => t.slot k = { gen := (s.slot k).gen, body := .granted c 0 })
      (Done := fun t : State => t.slot k = { gen := (s.slot k).gen + 1, body := .free })
      (fun t j ht => ?_) (fun t ht => ?_) (fun t j ht => ?_) _ ((mem_dueLapses s k).2 ⟨c, h⟩) _ (.inl ?_)
    · rw [slot_lapseSlot (congrArg Slot.body ht)]
      split
      · next hkj => subst hkj; rw [ht]; exact .inr rfl
      · exact .inl ht
    · rw [slot_lapseSlot (congrArg Slot.body ht), if_pos rfl, ht]
    · exact ((outlasts_lapseSlot t j).free k (congrArg Slot.body ht)).trans ht
    · rw [slot_tick, h]; rfl
  have hrest := ((afterWaits_outlasts s).trans (afterReports_outlasts s)).trans (millisecond_outlasts s)
  exact (hrest.free k (congrArg Slot.body hlapsed)).trans hlapsed

/-- A claim whose wait timer had run its full time waits no longer after the millisecond (R1, R63). -/
theorem millisecond_ends_waits {s : State} {k : Fin 24} {c : ClaimData} {bl : Blockers}
    (h : s.body k = .waiting c 0 bl) : (s.millisecond.body k).waitingClaim = none := by
  have hlapsed : (s.afterLapses.body k).WaitsOut := by
    refine List.foldlRecOn (motive := fun t : State => (t.body k).WaitsOut) s.dueLapses _ ?_
      fun _ ht j _ => waitsOut_lapseSlot ht j
    rw [body_tick, h]
    exact .inl ⟨c, bl, rfl⟩
  have hwaited : (s.afterWaits.body k).waitingClaim = none :=
    foldl_done (a := k) (Due := fun t : State => ∃ d bd, t.body k = .waiting d 0 bd)
      (Done := fun t : State => (t.body k).waitingClaim = none) (fun _ j ht => waitsOut_expireWait (.inl ht) j)
      (fun t ⟨_, _, ht⟩ => expireWait_settles ht) (fun t j => (outlasts_expireWait t j).settled k) _
      ((mem_dueWaits s k).2 ⟨c, bl, h⟩) _ hlapsed
  exact (millisecond_outlasts s).settled k ((afterReports_outlasts s).settled k hwaited)

theorem guards_afterWaits (s : State) : s.afterWaits.guards = s.tick.guards := by
  have hlapsed : s.afterLapses.guards = s.tick.guards :=
    List.foldlRecOn (motive := fun t : State => t.guards = s.tick.guards) _ _ rfl fun t ht k _ =>
      (guards_lapseSlot t k).trans ht
  exact List.foldlRecOn (motive := fun t : State => t.guards = s.tick.guards) _ _ hlapsed fun t ht k _ =>
    (guards_expireWait t k).trans ht

/-- An arm whose report timer had run its full time is LOST after the millisecond (R1, R133). -/
theorem millisecond_loses {s : State} {p : Arm} (h : s.ReportDue p) : s.millisecond.armState p = .lost := by
  obtain ⟨ht, ha⟩ := h
  have hdue : s.tick.ReportDue p := by
    unfold State.ReportDue State.armState
    rw [guard_tick, ht]
    exact ⟨rfl, ha⟩
  have hwaited : s.afterWaits.ReportDue p :=
    (reportDue_congr (congrArg (·.get p) (guards_afterWaits s))).2 hdue
  have hreported : s.afterReports.armState p = .lost :=
    foldl_done (a := p) (Due := fun t : State => t.ReportDue p) (Done := fun t : State => t.armState p = .lost)
      (fun t q hd => reportDue_expireReportTimer hd q)
      (fun t hd => by rw [expireReportTimer_due hd, armState_enterLost, if_pos rfl])
      (fun t q => (outlasts_expireReportTimer t q).lost p) _ ((mem_dueReports s p).2 ht) _ (.inl hwaited)
  exact (millisecond_outlasts s).lost p hreported

/-- A filter timer that had run its full time stands still after the millisecond (R1, R167). -/
theorem millisecond_stops_filters {s : State} {n : Fin 8} (h : (s.line n).filterTimer = some 0) :
    (s.millisecond.line n).filterTimer = none := by
  have htick : (s.tick.line n).filterTimer = some 0 := by rw [line_tick, h]; rfl
  have hearlier := ((afterLapses_outlasts s).trans (afterWaits_outlasts s)).trans (afterReports_outlasts s)
  rw [millisecond_eq]
  refine foldl_done (a := n) (Due := fun t : State => (t.line n).filterTimer = some 0)
    (Done := fun t : State => (t.line n).filterTimer = none) (fun t m ht => ?_) (fun t => expireFilter_stops)
    (fun t m => (outlasts_expireFilter t m).filter_stopped) _ ((mem_dueFilters s n).2 h) _ ?_
  · rw [← ht]; exact (outlasts_expireFilter t m).filter n
  · rw [← htick]; exact hearlier.filter n

theorem exec_accumulatorStep {s : State} (h : s.inReset = false) : exec .accumulatorStep s = .next s.millisecond :=
  takeEvent_next h State.millisecond

/-- Settles O50: the millisecond is the tick, whose fields are read off one by one, and then the expiries that were due,
each of which is done in its turn and outlasted by the later ones. -/
theorem millisecondCounts : Obligations.MillisecondCounts := by
  intro s hr
  refine ⟨s.tick, s.millisecond, exec_accumulatorStep hr, fun p => ?_, fun p => ?_, rfl, rfl, fun k => ?_,
    guard_tick s, line_tick s, frame_tick s,
    ⟨s.dueExpiries, nodup_dueExpiries s, mem_dueExpiries s, millisecond_inTurn hr⟩,
    fun k c => millisecond_lapses, fun k c bl => millisecond_ends_waits,
    fun p ht ha => millisecond_loses ⟨ht, ha⟩, fun n => millisecond_stops_filters⟩
  · rw [waitMs_tick, Accumulator.step_eq]
  · simp only [haltMs_tick, Accumulator.step_eq, halted_iff]
  · rw [slot_tick]
    cases s.body k <;> rfl

end Sys2Proof.Machine
end

section
/-! PROOFS. The three tests of boxes and the bin cut in terms of the points of the boxes, axis by axis (R3 to R6, R8):
O6. -/

namespace Sys2Proof.Machine

/-! ### One axis -/

/-- Two intervals share a point where neither lies beyond the other. -/
theorem exists_within_both {a b c d : Int} (hab : a ≤ b) (hcd : c ≤ d) :
    (a ≤ d ∧ c ≤ b) ↔ ∃ x, within a b x ∧ within c d x := by
  constructor
  · intro h
    exact ⟨max a c, by unfold within; omega, by unfold within; omega⟩
  · rintro ⟨x, hx, hx'⟩
    unfold within at hx hx'
    omega

/-- Two intervals come within n of each other where neither lies more than n beyond the other. -/
theorem exists_within_near {a b c d : Int} (n : Nat) (hab : a ≤ b) (hcd : c ≤ d) :
    (a ≤ d + n ∧ c ≤ b + n) ↔ ∃ x x', within a b x ∧ within c d x' ∧ (x - x').natAbs ≤ n := by
  constructor
  · intro h
    refine ⟨max a (min b c), max c (min d a), ?_⟩
    unfold within
    omega
  · rintro ⟨x, x', hx, hx', hn⟩
    unfold within at hx hx'
    omega

/-! ### The tests, bound by bound -/

theorem Box.wellFormed_iff (b : Box) : b.wellFormed = true ↔ b.xlo ≤ b.xhi ∧ b.ylo ≤ b.yhi ∧ b.zlo ≤ b.zhi := by
  simp [Box.wellFormed, and_assoc]

theorem Box.intersects_iff (a b : Box) :
    a.intersects b = true ↔
      (a.xlo ≤ b.xhi ∧ b.xlo ≤ a.xhi) ∧ (a.ylo ≤ b.yhi ∧ b.ylo ≤ a.yhi) ∧ (a.zlo ≤ b.zhi ∧ b.zlo ≤ a.zhi) := by
  simp [Box.intersects, and_assoc]

theorem Box.conflicts_iff (n : Nat) (a b : Box) :
    a.conflicts n b = true ↔
      (a.xlo ≤ b.xhi + n ∧ b.xlo ≤ a.xhi + n) ∧ (a.ylo ≤ b.yhi + n ∧ b.ylo ≤ a.yhi + n) ∧
        (a.zlo ≤ b.zhi + n ∧ b.zlo ≤ a.zhi + n) := by
  simp [Box.conflicts, and_assoc]

theorem Box.containedIn_iff (p q : Box) :
    p.containedIn q = true ↔
      (q.xlo ≤ p.xlo ∧ p.xhi ≤ q.xhi) ∧ (q.ylo ≤ p.ylo ∧ p.yhi ≤ q.yhi) ∧ (q.zlo ≤ p.zlo ∧ p.zhi ≤ q.zhi) := by
  simp [Box.containedIn, and_assoc]

/-- Under no clearance a conflict is an intersection (R6). -/
theorem Box.conflicts_zero (a b : Box) : a.conflicts 0 b = a.intersects b := by
  simp [Box.conflicts, Box.intersects]

/-! ### The tests, point by point -/

theorem Box.intersects_iff_shared_point {a b : Box} (ha : a.wellFormed = true) (hb : b.wellFormed = true) :
    a.intersects b = true ↔ ∃ x y z, a.holds x y z ∧ b.holds x y z := by
  obtain ⟨hax, hay, haz⟩ := a.wellFormed_iff.1 ha
  obtain ⟨hbx, hby, hbz⟩ := b.wellFormed_iff.1 hb
  rw [Box.intersects_iff, exists_within_both hax hbx, exists_within_both hay hby, exists_within_both haz hbz]
  constructor
  · rintro ⟨⟨x, hx, hx'⟩, ⟨y, hy, hy'⟩, z, hz, hz'⟩
    exact ⟨x, y, z, ⟨hx, hy, hz⟩, hx', hy', hz'⟩
  · rintro ⟨x, y, z, ⟨hx, hy, hz⟩, hx', hy', hz'⟩
    exact ⟨⟨x, hx, hx'⟩, ⟨y, hy, hy'⟩, z, hz, hz'⟩

theorem Box.conflicts_iff_near_points (n : Nat) {a b : Box} (ha : a.wellFormed = true) (hb : b.wellFormed = true) :
    a.conflicts n b = true ↔ ∃ x y z x' y' z', a.holds x y z ∧ b.holds x' y' z' ∧
      (x - x').natAbs ≤ n ∧ (y - y').natAbs ≤ n ∧ (z - z').natAbs ≤ n := by
  obtain ⟨hax, hay, haz⟩ := a.wellFormed_iff.1 ha
  obtain ⟨hbx, hby, hbz⟩ := b.wellFormed_iff.1 hb
  rw [Box.conflicts_iff, exists_within_near n hax hbx, exists_within_near n hay hby, exists_within_near n haz hbz]
  constructor
  · rintro ⟨⟨x, x', hx, hx', hxn⟩, ⟨y, y', hy, hy', hyn⟩, z, z', hz, hz', hzn⟩
    exact ⟨x, y, z, x', y', z', ⟨hx, hy, hz⟩, ⟨hx', hy', hz'⟩, hxn, hyn, hzn⟩
  · rintro ⟨x, y, z, x', y', z', ⟨hx, hy, hz⟩, ⟨hx', hy', hz'⟩, hxn, hyn, hzn⟩
    exact ⟨⟨x, x', hx, hx', hxn⟩, ⟨y, y', hy, hy', hyn⟩, z, z', hz, hz', hzn⟩

/-- Containment is decided at the two far corners of a box (R5). -/
theorem Box.containedIn_iff_points {a : Box} (b : Box) (ha : a.wellFormed = true) :
    a.containedIn b = true ↔ ∀ x y z, a.holds x y z → b.holds x y z := by
  obtain ⟨hx, hy, hz⟩ := a.wellFormed_iff.1 ha
  rw [Box.containedIn_iff]
  unfold Box.holds within
  constructor
  · intro h x y z hp
    omega
  · intro h
    have hlo := h a.xlo a.ylo a.zlo (by omega)
    have hhi := h a.xhi a.yhi a.zhi (by omega)
    omega

/-! ### The bin cut -/

/-- The box of the bounds that are inner to two boxes. -/
def Box.inner (a b : Box) : Box :=
  { xlo := max a.xlo b.xlo, xhi := min a.xhi b.xhi, ylo := max a.ylo b.ylo, yhi := min a.yhi b.yhi
    zlo := max a.zlo b.zlo, zhi := min a.zhi b.zhi }

theorem Box.inner_holds (a b : Box) (x y z : Int) : (a.inner b).holds x y z ↔ a.holds x y z ∧ b.holds x y z := by
  simp only [Box.holds, within, Box.inner]
  omega

theorem binVolume_eq : binVolume = ⟨0, 8191, 0, 8191, 0, 2047⟩ := rfl

/-- The bin cut is the part inside the bin volume, where the box intersects it (R8). -/
theorem Box.binCut_eq (b : Box) :
    b.binCut = if b.intersects binVolume = true then some (b.inner binVolume) else none := by
  unfold Box.binCut
  simp only [Box.intersects_iff, binVolume_eq, Config.binMaxXY, Config.binMaxZ]
  split
  · rw [if_neg (by omega)]
  · rw [if_pos (by omega)]
    rfl

theorem Box.binCut_eq_some_iff {b c : Box} :
    b.binCut = some c ↔ b.intersects binVolume = true ∧ b.inner binVolume = c := by
  rw [Box.binCut_eq]
  split <;> simp_all

theorem Box.binCut_eq_none_iff (b : Box) : b.binCut = none ↔ ¬ b.intersects binVolume = true := by
  rw [Box.binCut_eq]
  split <;> simp_all

/-- A bin cut is a box inside the bin volume (R2, R8). -/
theorem Box.binCut_inBin {b c : Box} (hb : b.wellFormed = true) (h : b.binCut = some c) :
    c.wellFormed = true ∧ c.containedIn binVolume = true := by
  obtain ⟨hi, rfl⟩ := Box.binCut_eq_some_iff.1 h
  rw [Box.intersects_iff] at hi
  rw [Box.wellFormed_iff] at hb
  rw [Box.wellFormed_iff, Box.containedIn_iff]
  simp only [Box.inner, binVolume_eq] at hi ⊢
  omega

/-- Settles O6: each test is decided axis by axis, and the bin cut is the box of the inner bounds. -/
theorem boxTestsAndBinCut : Obligations.BoxTestsAndBinCut := by
  refine ⟨Box.wellFormed_iff, fun a b => Box.intersects_iff_shared_point, fun a b => Box.containedIn_iff_points b,
    fun n a b => ⟨conflicts_comm n a b, Box.conflicts_zero a b⟩, fun n a b => Box.conflicts_iff_near_points n,
    fun _ => rfl, fun _ _ => rfl, binVolume_eq, fun b hb => ⟨?_, fun c hc => ?_⟩⟩
  · rw [Box.binCut_eq_none_iff, Box.intersects_iff_shared_point hb rfl]
  · refine ⟨(Box.binCut_inBin hb hc).1, fun x y z => ?_⟩
    obtain ⟨-, rfl⟩ := Box.binCut_eq_some_iff.1 hc
    exact b.inner_holds binVolume x y z

end Sys2Proof.Machine
end

section
/-! PROOFS. The Envelope Unit's arithmetic: the rounded division, the stopping distance, and the saturations, which
never change the bin part (R16 to R23): O7, O8 and O9. -/

namespace Sys2Proof.Machine

/-! ### Division by 16384 -/

theorem roundQ14_natAbs (n : Int) : (roundQ14 n).natAbs = (n.natAbs + 8192) / 16384 := by
  unfold roundQ14
  rw [Int.natAbs_mul, Int.natAbs_natCast, Int.natAbs_sign]
  split
  · next h => subst h; rfl
  · exact Nat.one_mul _

theorem roundQ14_of_nonneg {n : Int} (h : 0 ≤ n) : roundQ14 n = (n + 8192) / 16384 := by
  unfold roundQ14
  rcases h.eq_or_lt with rfl | hpos
  · rfl
  · rw [Int.sign_eq_one_of_pos hpos]
    omega

theorem roundQ14_neg (n : Int) : roundQ14 (-n) = -roundQ14 n := by
  unfold roundQ14
  rw [Int.sign_neg, Int.natAbs_neg, Int.neg_mul]

theorem roundQ14_of_nonpos {n : Int} (h : n ≤ 0) : roundQ14 n = -((-n + 8192) / 16384) := by
  rw [← roundQ14_of_nonneg (by omega : 0 ≤ -n), roundQ14_neg, Int.neg_neg]

/-- The product of a rotation term and a coordinate has a magnitude of at most 2^29 (R16). -/
theorem natAbs_mul_le {c x : Int} (hc : within (-16384) 16384 c) (hx : within (-32768) 32767 x) :
    (c * x).natAbs ≤ 536870912 := by
  unfold within at hc hx
  rw [Int.natAbs_mul]
  exact Nat.mul_le_mul (by omega : c.natAbs ≤ 16384) (by omega : x.natAbs ≤ 32768)

theorem within_roundQ14 {n : Int} (h : n.natAbs ≤ 1073741824) : within (-65536) 65536 (roundQ14 n) := by
  have hr := roundQ14_natAbs n
  unfold within
  omega

/-- Settles O7: the rounding is a division of the magnitude, read off for either sign. -/
theorem roundingToNearest : Obligations.RoundingToNearest := by
  refine ⟨fun n => ⟨roundQ14_natAbs n, fun h => ?_, fun h => ?_, ?_⟩, fun m hm => ⟨?_, ?_⟩,
    fun c s x y hc hs hx hy => ?_⟩
  · rw [roundQ14_of_nonneg h]; omega
  · rw [roundQ14_of_nonpos h]; omega
  · rcases Int.le_total 0 n with h | h
    · rw [roundQ14_of_nonneg h]; omega
    · rw [roundQ14_of_nonpos h]; omega
  · rw [roundQ14_of_nonneg (by omega)]; omega
  · rw [roundQ14_neg, roundQ14_of_nonneg (by omega)]; omega
  · have hcx := natAbs_mul_le hc hx
    have hsy := natAbs_mul_le hs hy
    have hsx := natAbs_mul_le hs hx
    have hcy := natAbs_mul_le hc hy
    exact ⟨within_roundQ14 (by omega), within_roundQ14 (by omega)⟩

/-! ### The stopping distance -/

/-- The division rounded up is the least whole number that the quotient does not exceed (R14). -/
theorem ceilDiv_le_iff {n d m : Nat} (hd : 0 < d) : ceilDiv n d ≤ m ↔ n ≤ m * d := by
  unfold ceilDiv
  rw [← Nat.lt_succ_iff, Nat.div_lt_iff_lt_mul hd, Nat.succ_mul]
  omega

theorem ceilDiv_pos {n d : Nat} (hd : 0 < d) (hn : 0 < n) : 1 ≤ ceilDiv n d := by
  by_contra h
  have := (ceilDiv_le_iff hd).1 (Nat.lt_one_iff.1 (Nat.lt_of_not_le h)).le
  omega

theorem ceilDiv_zero_left {d : Nat} (hd : 0 < d) : ceilDiv 0 d = 0 :=
  Nat.le_zero.1 ((ceilDiv_le_iff hd).2 (Nat.zero_le _))

theorem brakingTerm_le_iff {prof : Profile} (h : prof.inRange) (v n : Nat) :
    brakingTerm prof v ≤ n ↔ 5 * v ^ 2 ≤ n * prof.decel := by
  obtain ⟨hd, -⟩ := h
  rw [Nat.pow_two]
  exact ceilDiv_le_iff (by omega)

theorem reactionTerm_le_iff (prof : Profile) (v n : Nat) : reactionTerm prof v ≤ n ↔ v * prof.react ≤ n * 100 :=
  ceilDiv_le_iff (by omega)

theorem sq_speed_le {v : Nat} (hv : v ≤ 4095) : 5 * v ^ 2 ≤ 83845125 :=
  Nat.mul_le_mul_left 5 (Nat.pow_le_pow_left hv 2)

theorem speed_react_le {prof : Profile} (h : prof.inRange) {v : Nat} (hv : v ≤ 4095) : v * prof.react ≤ 1044225 := by
  obtain ⟨-, -, hr, -⟩ := h
  exact Nat.mul_le_mul hv hr

theorem brakingTerm_le {prof : Profile} (h : prof.inRange) {v : Nat} (hv : v ≤ 4095) :
    brakingTerm prof v ≤ 167691 := by
  have hsq := sq_speed_le hv
  rw [brakingTerm_le_iff h]
  obtain ⟨hd, -⟩ := h
  omega

theorem reactionTerm_le {prof : Profile} (h : prof.inRange) {v : Nat} (hv : v ≤ 4095) :
    reactionTerm prof v ≤ 10443 := by
  have hvr := speed_react_le h hv
  rw [reactionTerm_le_iff]
  omega

theorem stoppingDistance_le (prof : Profile) (v : Nat) : stoppingDistance prof v ≤ 4095 := Nat.min_le_right _ _

/-- Settles O8: each term is a division rounded up, bounded where its dividend is. -/
theorem stoppingDistanceBounds : Obligations.StoppingDistance := by
  intro prof v h hv
  have ht1 := brakingTerm_le h hv
  have ht2 := reactionTerm_le h hv
  have hd : 0 < prof.decel := by obtain ⟨hd, -⟩ := h; omega
  refine ⟨brakingTerm_le_iff h v, fun hv => ceilDiv_pos hd (by positivity), ?_, ht1, ?_, sq_speed_le hv,
    reactionTerm_le_iff prof v, fun hv hr => ceilDiv_pos (by omega) (Nat.mul_pos hv hr), ?_, ht2, ?_,
    speed_react_le h hv, rfl, Nat.add_le_add ht1 ht2, stoppingDistance_le prof v⟩
  · rintro rfl
    exact ceilDiv_zero_left hd
  · intro hv hdecel
    unfold brakingTerm
    rw [hv, hdecel]
    rfl
  · intro hzero
    unfold reactionTerm
    rw [Nat.mul_eq_zero.2 hzero]
    rfl
  · intro hv hreact
    unfold reactionTerm
    rw [hv, hreact]
    rfl

/-! ### Saturation -/

theorem within_saturate (x : Int) : within (-16384) 16383 (saturate x) := by
  simp only [within, saturate, Config.workLo, Config.workHi]
  omega

theorem saturate_mono {x y : Int} (h : x ≤ y) : saturate x ≤ saturate y := by
  simp only [saturate]
  omega

/-- Two intervals have the same part between 0 and a bound of the bin: both have none, or both the same ends (R8). -/
def SameCut (top lo hi lo' hi' : Int) : Prop :=
  ((hi < 0 ∨ top < lo) ↔ (hi' < 0 ∨ top < lo')) ∧
    (¬ (hi < 0 ∨ top < lo) → max lo 0 = max lo' 0 ∧ min hi top = min hi' top)

/-- Saturating a coordinate, and then the ends of the interval about it, changes no part inside the bin, since the
extent is less than the distance from the bin to the ends of the working range (R22, R23). -/
theorem sameCut_saturate {top : Int} (htop : 0 ≤ top ∧ top ≤ 8191) {e : Int} (he : 0 ≤ e ∧ e ≤ 5118) (x : Int) :
    SameCut top (saturate (saturate x - e)) (saturate (saturate x + e)) (x - e) (x + e) := by
  simp only [SameCut, saturate, Config.workLo, Config.workHi]
  omega

/-- Boxes with the same part between the bin's bounds on each axis have the same bin cut. -/
theorem Box.binCut_congr {a b : Box} (hx : SameCut 8191 a.xlo a.xhi b.xlo b.xhi)
    (hy : SameCut 8191 a.ylo a.yhi b.ylo b.yhi) (hz : SameCut 2047 a.zlo a.zhi b.zlo b.zhi) : a.binCut = b.binCut := by
  obtain ⟨hx, hx'⟩ := hx
  obtain ⟨hy, hy'⟩ := hy
  obtain ⟨hz, hz'⟩ := hz
  simp only [Box.binCut_eq, Box.intersects_iff, binVolume_eq, Box.inner]
  split
  · obtain ⟨hxlo, hxhi⟩ := hx' (by omega)
    obtain ⟨hylo, hyhi⟩ := hy' (by omega)
    obtain ⟨hzlo, hzhi⟩ := hz' (by omega)
    rw [if_pos (by omega), hxlo, hxhi, hylo, hyhi, hzlo, hzhi]
  · rw [if_neg (by omega)]

/-- Settles O9: on each axis the extent about the tool point is at most 5118 dmm, too little to reach the bin from
beyond the working range. -/
theorem saturationKeepsBinPart : Obligations.SaturationKeepsBinPart := by
  intro cal xa ya za d hcal _ _ _ hd saturated exact
  obtain ⟨-, -, -, -, -, hrxy, hrz⟩ := hcal
  unfold within at hrxy hrz
  have hbin : (0 : Int) ≤ 8191 ∧ (8191 : Int) ≤ 8191 := by decide
  refine ⟨rfl, fun _ => rfl, Box.binCut_congr ?_ ?_ ?_⟩
  · exact sameCut_saturate hbin (by omega) _
  · exact sameCut_saturate hbin (by omega) _
  · exact sameCut_saturate (by decide) (by omega) _

end Sys2Proof.Machine
end

section
/-! PROOFS. What keeps the bounded things in their ranges, said once for each update of the state and then for each
shared operation. -/

namespace Sys2Proof.Machine

/-- A recorded bin part is the bin cut of the recorded swept box, a box whose bounds lie in the working range (R22). -/
def LastReport.inBin (l : LastReport) : Prop :=
  l.binPart = l.swept.binCut ∧ l.swept.wellFormed = true ∧
    within (-16384) 16383 l.swept.xlo ∧ within (-16384) 16383 l.swept.xhi ∧
    within (-16384) 16383 l.swept.ylo ∧ within (-16384) 16383 l.swept.yhi ∧
    within (-16384) 16383 l.swept.zlo ∧ within (-16384) 16383 l.swept.zhi

theorem partsInBin_iff (s : State) : s.PartsInBin ↔ ∀ p l, (s.record p).last = some l → l.inBin := Iff.rfl

/-- A claim's box lies in the bin volume, with lo ≤ hi on each axis (R31). -/
def Box.inBin (b : Box) : Prop := b.wellFormed = true ∧ b.containedIn binVolume = true

theorem boxesInBin_iff (s : State) : s.BoxesInBin ↔ ∀ k c, (s.body k).claim = some c → c.box.inBin := Iff.rfl

/-- From s to t the settings, queues, counters, map, claim boxes and recorded boxes keep their ranges. A field left out
of a proof is one that the update does not touch. -/
structure KeepsRanges (s t : State) : Prop where
  settings : s.SettingsInRange → t.SettingsInRange := by exact id
  queues : s.QueuesBounded → t.QueuesBounded := by exact id
  counters : s.CountersBounded → t.CountersBounded := by exact id
  map : s.MapCanonical → t.MapCanonical := by exact id
  boxes : s.BoxesInBin → t.BoxesInBin := by exact id
  parts : s.SettingsInRange → s.PartsInBin → t.PartsInBin := by exact fun _ => id

/-- The ranges are kept, and the replies held go on fitting their layouts. -/
structure Keeps (s t : State) : Prop extends KeepsRanges s t where
  replies : s.RepliesFit → t.RepliesFit := by exact id

theorem KeepsRanges.trans {s t u : State} (h : KeepsRanges s t) (h' : KeepsRanges t u) : KeepsRanges s u where
  settings := h'.settings ∘ h.settings
  queues := h'.queues ∘ h.queues
  counters := h'.counters ∘ h.counters
  map := h'.map ∘ h.map
  boxes := h'.boxes ∘ h.boxes
  parts hs hp := h'.parts (h.settings hs) (h.parts hs hp)

theorem Keeps.refl (s : State) : Keeps s s := {}

theorem Keeps.trans {s t u : State} (h : Keeps s t) (h' : Keeps t u) : Keeps s u :=
  { h.toKeepsRanges.trans h'.toKeepsRanges with replies := h'.replies ∘ h.replies }

theorem Keeps.foldl {α : Type} {f : State → α → State} (hf : ∀ t a, Keeps t (f t a)) (l : List α) (s : State) :
    Keeps s (l.foldl f s) := List.foldlRecOn l f (.refl s) fun t h a _ => h.trans (hf t a)

/-! ### Updates of one record -/

theorem keeps_setGuard (s : State) (p : Arm) (g : Guard) : Keeps s (s.setGuard p g) := {}

theorem keeps_updSticky (s : State) (f : StickyFlags → StickyFlags) : Keeps s (s.updSticky f) := {}

theorem keeps_setRecord {s : State} {p : Arm} {r : ReportRecord}
    (h : s.SettingsInRange → s.PartsInBin → ∀ l, r.last = some l → l.inBin) : Keeps s (s.setRecord p r) where
  parts hs hp q l hl := by
    rw [State.record_setRecord] at hl
    split at hl
    · exact h hs hp l hl
    · exact hp q l hl

/-- A report record whose recorded boxes stay as they are. -/
theorem keeps_setRecord_verdict {s : State} {p : Arm} {r : ReportRecord}
    (h : ∀ l', r.last = some l' →
      ∃ l, (s.record p).last = some l ∧ l'.swept = l.swept ∧ l'.binPart = l.binPart) : Keeps s (s.setRecord p r) := by
  refine keeps_setRecord fun _ hp l' hl' => ?_
  obtain ⟨l, hl, hswept, hpart⟩ := h l' hl'
  unfold LastReport.inBin
  rw [hswept, hpart]
  exact hp p l hl

theorem keeps_setRecord_last {s : State} {p : Arm} {r : ReportRecord} (h : r.last = (s.record p).last) :
    Keeps s (s.setRecord p r) := keeps_setRecord_verdict fun l hl => ⟨l, h ▸ hl, rfl, rfl⟩

theorem keeps_clearFresh (s : State) (p : Arm) : Keeps s (s.clearFresh p) := keeps_setRecord_last rfl

theorem keepsRanges_setLink {s : State} {p : Arm} {l : ArmLink}
    (hq : (s.link p).queue.length ≤ Config.noticeCapacity → l.queue.length ≤ Config.noticeCapacity)
    (he : (s.link p).errors ≤ Config.linkErrorMax → l.errors ≤ Config.linkErrorMax) :
    KeepsRanges s (s.setLink p l) where
  queues h q := by
    rw [State.link_setLink]
    split
    · exact hq (h p)
    · exact h q
  counters := by
    rintro ⟨herr, hrest⟩
    refine ⟨fun q => ?_, hrest⟩
    rw [State.link_setLink]
    split
    · exact he (herr p)
    · exact herr q

theorem repliesFit_setLink {s : State} {p : Arm} {l : ArmLink} (h : s.RepliesFit) (hl : l.reply.data.Fits) :
    (s.setLink p l).RepliesFit := by
  obtain ⟨harm, hcell⟩ := h
  refine ⟨fun q => ?_, hcell⟩
  rw [State.link_setLink]
  split
  · exact hl
  · exact harm q

theorem keeps_setLink {s : State} {p : Arm} {l : ArmLink}
    (hq : (s.link p).queue.length ≤ Config.noticeCapacity → l.queue.length ≤ Config.noticeCapacity)
    (he : (s.link p).errors ≤ Config.linkErrorMax → l.errors ≤ Config.linkErrorMax)
    (hr : (s.link p).reply.data.Fits → l.reply.data.Fits) : Keeps s (s.setLink p l) :=
  { keepsRanges_setLink hq he with
    replies := fun h => repliesFit_setLink h (hr (by obtain ⟨harm, -⟩ := h; exact harm p)) }

theorem keeps_cell {s : State} {c : CellLink}
    (he : s.cell.errors ≤ Config.linkErrorMax → c.errors ≤ Config.linkErrorMax)
    (hr : s.cell.reply.data.Fits → c.reply.data.Fits) : Keeps s { s with cell := c } where
  counters := fun ⟨herr, hcell, hacc⟩ => ⟨herr, he hcell, hacc⟩
  replies := fun ⟨harm, hcell⟩ => ⟨harm, hr hcell⟩

theorem keeps_setLine {s : State} {n : Fin 8} {l : Line} (h : (s.line n).debounce ≤ 15 → l.debounce ≤ 15) :
    Keeps s (s.setLine n l) where
  settings := by
    rintro ⟨hcal, hprof, htime, hline⟩
    refine ⟨hcal, hprof, htime, fun m => ?_⟩
    rw [State.line_setLine]
    split
    · exact h (hline n)
    · exact hline m

theorem keeps_keepOut {s : State} {m : KeepOut} (h : s.MapCanonical → m.wf = true) :
    Keeps s { s with keepOut := m } where
  map := h

/-- The event unit, its accumulators in their range where they were. -/
theorem keeps_events {s : State} {e : EventUnit}
    (hwait : ∀ p, (s.events.waitMs.get p).value ≤ Config.accumulatorMax →
      (e.waitMs.get p).value ≤ Config.accumulatorMax)
    (hhalt : ∀ p, (s.events.haltMs.get p).value ≤ Config.accumulatorMax →
      (e.haltMs.get p).value ≤ Config.accumulatorMax) : Keeps s { s with events := e } where
  counters := fun ⟨herr, hcell, hw, hh⟩ => ⟨herr, hcell, fun p => hwait p (hw p), fun p => hhalt p (hh p)⟩

theorem keeps_guards (s : State) (g : PerArm Guard) : Keeps s { s with guards := g } := {}

/-- The lines replaced at once, each keeping its debounce. -/
theorem keeps_lines {s : State} {v : Vector Line 8} (h : ∀ n : Fin 8, v[n].debounce = (s.line n).debounce) :
    Keeps s { s with lines := v } where
  settings := fun ⟨hcal, hprof, htime, hline⟩ => ⟨hcal, hprof, htime, fun n => (h n).trans_le (hline n)⟩

theorem keeps_writeOutputs (s : State) (f : Fin 8 → Bool → Bool) : Keeps s (s.writeOutputs f) :=
  keeps_lines fun n => by rw [Fin.getElem_fin, Vector.getElem_ofFn]

theorem keeps_setSlot {s : State} {k : Fin 24} {x : Slot}
    (h : s.BoxesInBin → ∀ c, x.body.claim = some c → c.box.inBin) : Keeps s (s.setSlot k x) where
  boxes hb j c hc := by
    rw [State.body_setSlot] at hc
    split at hc
    · exact h hb c hc
    · exact hb j c hc

/-- A slot that enters another state keeps its claim, or holds none. -/
theorem keeps_setBody {s : State} {k : Fin 24} {b : SlotBody}
    (h : ∀ c, b.claim = some c → (s.body k).claim = some c) : Keeps s (s.setBody k b) :=
  keeps_setSlot fun hb c hc => hb k c (h c hc)

theorem keeps_waitList (s : State) (w : List (Fin 24)) : Keeps s { s with waitList := w } := {}

/-- The slots replaced at once, each keeping its claim or holding none. -/
theorem keeps_slots {s : State} {v : Vector Slot 24}
    (h : ∀ (k : Fin 24) c, v[k].body.claim = some c → (s.body k).claim = some c) : Keeps s { s with slots := v } where
  boxes hb k c hc := hb k c (h k c hc)

theorem keeps_mapBodies {s : State} {f : Fin 24 → SlotBody → SlotBody} (h : ∀ k b, (f k b).claim = b.claim) :
    Keeps s (s.mapBodies f) := by
  refine keeps_slots fun k c hc => ?_
  rw [Fin.getElem_fin, Vector.getElem_ofFn, h] at hc
  exact hc

end Sys2Proof.Machine
end

section
/-! PROOFS. The shared operations of the Claim Table, the guard controllers, the lines and the time base keep the
bounded things in their ranges. -/

namespace Sys2Proof.Machine

/-! ### The Claim Table -/

/-- A notice joins a queue with room for it, or none (R180). -/
theorem keeps_queueNotice (s : State) (p : Arm) (n : Notice) : Keeps s (s.queueNotice p n) := by
  unfold State.queueNotice
  simp only
  split
  · next h => exact keeps_setLink (fun _ => by simpa using h) id id
  · have hlost : Keeps s (s.setLink p { s.link p with noticeLost := true }) := keeps_setLink id id id
    exact hlost.trans (keeps_updSticky _ _)

theorem keeps_freeSlot (s : State) (k : Fin 24) : Keeps s (s.freeSlot k) := by
  have hfree : Keeps s (s.setSlot k { gen := (s.slot k).gen + 1, body := .free }) := keeps_setSlot fun _ _ => nofun
  exact hfree.trans (keeps_waitList _ _)

/-- A re-judgement of the place leaves the recorded boxes (R118). -/
theorem keeps_rejudgePlace (s : State) (p : Arm) : Keeps s (s.rejudgePlace p) := by
  unfold State.rejudgePlace
  simp only
  split
  · exact .refl s
  · next l hl =>
    split
    · split
      · exact .refl s
      · exact keeps_setRecord_verdict fun l' hl' => ⟨l, hl, by cases hl'; exact ⟨rfl, rfl⟩⟩
    · exact .refl s

theorem keeps_retire (s : State) (k : Fin 24) (n : Option NoticeKind) (r : Bool) : Keeps s (s.retire k n r) := by
  cases hc : (s.body k).claim with
  | none => rw [retire_of_claim_none hc]; exact .refl s
  | some c =>
    have htold : Keeps s (s.told k c n) := by
      cases n with
      | none => exact keeps_freeSlot s k
      | some n => exact (keeps_freeSlot s k).trans (keeps_queueNotice _ _ _)
    rw [retire_eq s k n r hc]
    split
    · exact htold.trans (keeps_rejudgePlace _ _)
    · exact htold

theorem keeps_grantWaiting {s : State} {k : Fin 24} {c : ClaimData} (h : (s.body k).claim = some c) :
    Keeps s (s.grantWaiting k c) :=
  ((keeps_setBody (by rw [h]; exact fun _ => id)).trans (keeps_waitList _ _)).trans (keeps_queueNotice _ _ _)

/-- The walk grants claims, or gives them new blocker sets (R70, R71). -/
theorem keeps_rescreenFrom (rest : List (Fin 24)) : ∀ (ahead : List (Fin 24)) (s : State),
    Keeps s (rescreenFrom ahead rest s) := by
  induction rest with
  | nil => exact fun _ s => .refl s
  | cons k rest ih =>
    intro ahead s
    obtain ⟨c, left, bl, hb, -, he⟩ | ⟨c, left, bl, hb, -, he⟩ | ⟨-, he⟩ := rescreenFrom_cons ahead k rest s
    · rw [he]
      exact (keeps_grantWaiting (by rw [hb]; rfl)).trans (ih _ _)
    · rw [he]
      exact (keeps_setBody (by rw [hb]; exact fun _ => id)).trans (ih _ _)
    · rw [he]
      exact ih _ _

theorem keeps_rescreen (s : State) : Keeps s s.rescreen := keeps_rescreenFrom _ _ _

theorem keeps_retireAll (s : State) (ks : List (Fin 24)) (n : Option NoticeKind) (r : Bool) :
    Keeps s (s.retireAll ks n r) := .foldl (fun t k => keeps_retire t k n r) ks s

theorem keeps_retireAndRescreen (s : State) (ks : List (Fin 24)) (n : Option NoticeKind) (r : Bool) :
    Keeps s (s.retireAndRescreen ks n r) := by
  unfold State.retireAndRescreen
  split
  · exact .refl s
  · exact (keeps_retireAll s ks n r).trans (keeps_rescreen _)

theorem keeps_joinBlockers (s : State) (p : Arm) (k : Fin 24) (box : Box) (behind : Fin 24 → Bool) :
    Keeps s (s.joinBlockers p k box behind) :=
  keeps_mapBodies fun _ b => by
    cases b with
    | waiting c left bl => simp only; split <;> rfl
    | _ => rfl

theorem keeps_joinGroup (s : State) (g : Group) : Keeps s (s.joinGroup g) :=
  keeps_mapBodies fun _ b => by
    cases b with
    | waiting c left bl => simp only; split <;> rfl
    | _ => rfl

theorem keeps_markEntry (s : State) (p : Arm) (part : Option Box) : Keeps s (s.markEntry p part) :=
  keeps_mapBodies fun _ b => by
    cases b with
    | granted c left => simp only; split <;> rfl
    | _ => rfl

theorem keeps_tableActivate (s : State) (g : Group) : Keeps s (s.tableActivate g) := by
  have hjoined := (keeps_retireAll s (s.revoked g) (some .revoked) false).trans (keeps_joinGroup _ g)
  unfold State.tableActivate
  dsimp only
  split
  · exact hjoined
  · exact (hjoined.trans (keeps_updSticky _ _)).trans (keeps_rescreen _)

/-! ### The guard controllers -/

theorem keeps_enterStopped (s : State) (p : Arm) (causes : List StopCause) : Keeps s (s.enterStopped p causes) := by
  unfold State.enterStopped
  exact ((keeps_setGuard s p _).trans (keeps_clearFresh _ p)).trans (keeps_updSticky _ _)

theorem keeps_stopArm (s : State) (p : Arm) (cause : StopCause) : Keeps s (s.stopArm p cause) := by
  unfold State.stopArm
  cases s.armState p with
  | run => exact keeps_enterStopped s p _
  | stopped => exact keeps_setGuard s p _
  | detached | lost => exact .refl s

theorem keeps_resumeCheck (s : State) (p : Arm) : Keeps s (s.resumeCheck p) := by
  unfold State.resumeCheck
  dsimp only
  split
  · exact keeps_setGuard s p _
  · exact .refl s

theorem keeps_returnFromLost (s : State) (p : Arm) : Keeps s (s.returnFromLost p) := by
  unfold State.returnFromLost
  dsimp only
  split
  · exact ((keeps_setGuard s p _).trans (keeps_clearFresh _ p)).trans (keeps_updSticky _ _)
  · exact .refl s

theorem keeps_takeVerdict (s : State) (p : Arm) (v : Verdict) : Keeps s (s.takeVerdict p v) := by
  have hstart : Keeps s (s.startReportTimer p) := keeps_setGuard s p _
  unfold State.takeVerdict
  cases s.armState p with
  | run =>
    dsimp only
    split
    · exact hstart
    · exact hstart.trans (keeps_enterStopped _ p _)
  | stopped => exact hstart.trans (keeps_resumeCheck _ p)
  | detached | lost => exact .refl s

theorem keeps_enterLost (s : State) (p : Arm) : Keeps s (s.enterLost p) :=
  (((keeps_setGuard s p _).trans (keeps_clearFresh _ p)).trans (keeps_updSticky _ _)).trans
    (keeps_retireAndRescreen _ _ _ _)

/-! ### Changes of a source -/

theorem keeps_keepIntrusion (s : State) (p : Arm) : Keeps s (s.keepIntrusion p) := by
  unfold State.keepIntrusion
  dsimp only
  split
  · exact .refl s
  · next l hl => exact keeps_setRecord_verdict fun l' hl' => ⟨l, hl, by cases hl'; exact ⟨rfl, rfl⟩⟩

theorem keeps_guardActivate (s : State) (g : Group) (p : Arm) : Keeps s (s.guardActivate g p) := by
  unfold State.guardActivate
  split
  · exact keeps_stopArm s p _
  · exact .refl s

theorem keeps_groupActivated (s : State) (g : Group) : Keeps s (s.groupActivated g) := by
  unfold State.groupActivated
  split
  · have hguards := ((keeps_tableActivate s g).trans (keeps_guardActivate _ g .a)).trans (keeps_guardActivate _ g .b)
    exact (hguards.trans (keeps_keepIntrusion _ .a)).trans (keeps_keepIntrusion _ .b)
  · exact .refl s

theorem keeps_groupDeactivated (s : State) : Keeps s s.groupDeactivated := by
  unfold State.groupDeactivated
  split
  · have hkept := ((keeps_rescreen s).trans (keeps_keepIntrusion _ .a)).trans (keeps_keepIntrusion _ .b)
    exact (hkept.trans (keeps_resumeCheck _ .a)).trans (keeps_resumeCheck _ .b)
  · exact .refl s

theorem keeps_groupEvent (s : State) (before : Bool) (g : Group) : Keeps s (s.groupEvent before g) := by
  unfold State.groupEvent
  split
  · exact .refl s
  · split
    · exact keeps_groupDeactivated s
    · exact keeps_groupActivated s g

theorem keeps_estopEvent (s : State) (before : Bool) : Keeps s (s.estopEvent before) := by
  unfold State.estopEvent
  split
  · exact .refl s
  · split
    · exact (keeps_resumeCheck s .a).trans (keeps_resumeCheck _ .b)
    · exact (keeps_stopArm s .a _).trans (keeps_stopArm _ .b _)

theorem keeps_afterSources {s : State} {change : State → State} (h : Keeps s (change s)) :
    Keeps s (s.afterSources change) :=
  (((h.trans (keeps_groupEvent _ _ _)).trans (keeps_groupEvent _ _ _)).trans (keeps_groupEvent _ _ _)).trans
    (keeps_estopEvent _ _)

/-! ### The lines -/

theorem keeps_setFiltered (s : State) (n : Fin 8) (active : Bool) : Keeps s (s.setFiltered n active) :=
  keeps_afterSources (keeps_setLine id)

theorem keeps_filterRaw (s : State) (n : Fin 8) : Keeps s (s.filterRaw n) := by
  unfold State.filterRaw
  dsimp only
  split
  · exact keeps_setLine id
  · split
    · exact keeps_setFiltered s n _
    · exact keeps_setLine id

theorem keeps_changeRaw (s : State) (n : Fin 8) (level : Level) : Keeps s (s.changeRaw n level) := by
  unfold State.changeRaw
  dsimp only
  split
  · exact keeps_setLine id
  · split
    · exact keeps_setLine id
    · split
      · exact .refl s
      · have hwire : Keeps s (s.setLine n { s.line n with wire := level }) := keeps_setLine id
        exact hwire.trans (keeps_filterRaw _ n)

/-- SET_LINE's debounce is the one that is written (R165). -/
theorem keeps_configureLine (s : State) (n : Fin 8) (f : LineFunction) (pol : Polarity) {debounce : Nat}
    (h : debounce ≤ 15) : Keeps s (s.configureLine n f pol debounce) :=
  keeps_afterSources (keeps_setLine fun _ => h)

/-! ### The time base -/

theorem keeps_lapseSlot (s : State) (k : Fin 24) : Keeps s (s.lapseSlot k) := by
  unfold State.lapseSlot
  split
  · exact (keeps_updSticky s _).trans (keeps_retireAndRescreen _ _ _ _)
  · exact .refl s

theorem keeps_expireWait (s : State) (k : Fin 24) : Keeps s (s.expireWait k) := by
  unfold State.expireWait
  split
  · exact (keeps_updSticky s _).trans (keeps_retireAndRescreen _ _ _ _)
  · exact .refl s

theorem keeps_expireReportTimer (s : State) (p : Arm) : Keeps s (s.expireReportTimer p) := by
  unfold State.expireReportTimer
  split
  · exact keeps_enterLost s p
  · exact .refl s

theorem keeps_expireFilter (s : State) (n : Fin 8) : Keeps s (s.expireFilter n) := by
  unfold State.expireFilter
  split
  · exact keeps_setFiltered s n _
  · exact .refl s

theorem SlotBody.claim_tick (b : SlotBody) : b.tick.claim = b.claim := by cases b <;> rfl

theorem Accumulator.step_le {a : Accumulator} (h : a.value ≤ Config.accumulatorMax) (holds : Bool) :
    (a.step holds).value ≤ Config.accumulatorMax := by
  unfold Accumulator.step
  split
  · exact Nat.min_le_right _ _
  · exact h

/-- The timers beside the slots' and the accumulators take new values. -/
theorem keeps_timers {s : State} {gs : PerArm Guard} {ls : Vector Line 8} {e : EventUnit}
    (hline : ∀ n : Fin 8, ls[n].debounce = (s.line n).debounce)
    (hwait : ∀ p, (s.events.waitMs.get p).value ≤ Config.accumulatorMax →
      (e.waitMs.get p).value ≤ Config.accumulatorMax)
    (hhalt : ∀ p, (s.events.haltMs.get p).value ≤ Config.accumulatorMax →
      (e.haltMs.get p).value ≤ Config.accumulatorMax) :
    Keeps s { s with guards := gs, lines := ls, events := e } :=
  ((keeps_guards s gs).trans (keeps_lines hline)).trans (keeps_events hwait hhalt)

theorem keeps_tick (s : State) : Keeps s s.tick := by
  unfold State.tick
  refine (keeps_mapBodies fun _ => SlotBody.claim_tick).trans
    (keeps_timers (fun n => ?_) (fun p hp => ?_) fun p hp => ?_)
  · rw [Fin.getElem_fin, Vector.getElem_ofFn, State.mapBodies_line]
  · cases p <;> exact Accumulator.step_le hp _
  · cases p <;> exact Accumulator.step_le hp _

theorem keeps_millisecond (s : State) : Keeps s s.millisecond :=
  millisecond_induction s (keeps_tick s) (fun t k h => h.trans (keeps_lapseSlot t k))
    (fun t k h => h.trans (keeps_expireWait t k)) (fun t p h => h.trans (keeps_expireReportTimer t p))
    fun t n h => h.trans (keeps_expireFilter t n)

end Sys2Proof.Machine
end

section
/-! PROOFS. The replies: what the data that an owner answers with are read from, and that an arm request's owner keeps
the bounded things in their ranges and answers with data that fit. -/

namespace Sys2Proof.Machine

/-- What the replies' data are read from is in its range. -/
structure State.Readable (s : State) : Prop where
  settings : s.SettingsInRange
  timers : s.TimersBounded
  counters : s.CountersBounded
  boxes : s.BoxesInBin
  parts : s.PartsInBin
  waitList : s.WaitListExact

/-! ### Data that fit -/

theorem length_allSlots : allSlots.length = 24 := List.length_finRange

theorem countOf_le (s : State) (p : Arm) : s.countOf p ≤ 24 :=
  (List.length_filter_le _ _).trans_eq length_allSlots

/-- T_entry and T_wait are at most 2550 ms, and so is what is left of a slot's timer (R43, R191). -/
theorem State.Readable.remaining_le {s : State} (h : s.Readable) (k : Fin 24) : (s.body k).remaining ≤ 2550 := by
  obtain ⟨-, -, ⟨-, hentry, -, hwait, -⟩, -⟩ := h.settings
  obtain ⟨hlapses, hwaits, -⟩ := h.timers
  unfold State.entryMs at hlapses
  unfold State.waitMs at hwaits
  cases hb : s.body k with
  | waiting c left bl => exact (hwaits k c left bl hb).trans (by omega)
  | granted c left => exact (hlapses k c left hb).trans (by omega)
  | _ => exact Nat.zero_le _

theorem tensOfMs_le {ms : Nat} (h : ms ≤ 2550) : tensOfMs ms ≤ 255 := by
  unfold tensOfMs
  omega

theorem length_indexRange (lo hi : Int) (edge : Nat) :
    (indexRange lo hi edge).length = hi.toNat / edge + 1 - lo.toNat / edge := List.length_range'

/-- A box inside the bin touches at most each of the 4096 cells. -/
theorem length_touchedCells_le (g : Geometry) {b : Box} (hb : b.containedIn binVolume = true) :
    (touchedCells g b).length ≤ 4096 := by
  obtain ⟨hx, hy, hz⟩ := (b.containedIn_iff binVolume).1 hb
  simp only [binVolume_eq] at hx hy hz
  have hlen : (touchedCells g b).length = (indexRange b.zlo b.zhi g.edgeZ).length *
      ((indexRange b.ylo b.yhi g.edgeXY).length * (indexRange b.xlo b.xhi g.edgeXY).length) := by
    simp [touchedCells, List.length_flatMap]
  have hxlen : (indexRange b.xlo b.xhi g.edgeXY).length ≤ g.nxy := by
    rw [length_indexRange]
    cases g <;> simp only [Geometry.nxy, Geometry.edgeXY] <;> omega
  have hylen : (indexRange b.ylo b.yhi g.edgeXY).length ≤ g.nxy := by
    rw [length_indexRange]
    cases g <;> simp only [Geometry.nxy, Geometry.edgeXY] <;> omega
  have hzlen : (indexRange b.zlo b.zhi g.edgeZ).length ≤ g.nz := by
    rw [length_indexRange]
    cases g <;> simp only [Geometry.nz, Geometry.edgeZ] <;> omega
  calc (touchedCells g b).length ≤ g.nz * (g.nxy * g.nxy) :=
        hlen.trans_le (Nat.mul_le_mul hzlen (Nat.mul_le_mul hylen hxlen))
    _ = 4096 := by cases g <;> rfl

/-- A list of slots that names none twice names at most the 24 (R57). -/
theorem waitPosition_le {s : State} (h : s.waitList.Nodup) (k : Fin 24) : s.waitPosition k ≤ 24 := by
  unfold State.waitPosition
  split
  · have hlen : s.waitList.length ≤ 24 := by simpa using h.length_le_card
    exact List.idxOf_le_length.trans hlen
  · exact Nat.zero_le _

/-- A box inside the bin fits the fields of a layout (R2, R185). -/
theorem Box.inFields_of_inBin {b : Box} (h : b.inBin) : b.inFields := by
  obtain ⟨hwf, hin⟩ := h
  rw [Box.wellFormed_iff] at hwf
  rw [Box.containedIn_iff] at hin
  simp only [binVolume_eq] at hin
  unfold Box.inFields within
  omega

theorem LastReport.inFields {l : LastReport} (h : l.inBin) :
    l.swept.inFields ∧ ∀ b, l.binPart = some b → b.inFields := by
  obtain ⟨hcut, hwf, hswept⟩ := h
  refine ⟨?_, fun b hb => Box.inFields_of_inBin (Box.binCut_inBin hwf (hcut ▸ hb))⟩
  unfold within at hswept
  unfold Box.inFields within
  omega

/-! ### The swept box -/

/-- A swept box about any point has its bounds in order and in the working range (R21, R22). -/
theorem sweptBox_inBin {cal : Calibration} (h : cal.inRange) (pt : Point) (d : Nat) (v : Verdict) :
    LastReport.inBin { swept := sweptBox cal pt d, binPart := (sweptBox cal pt d).binCut, verdict := v } := by
  obtain ⟨-, -, -, -, -, ⟨hrxy, -⟩, hrz, -⟩ := h
  refine ⟨rfl, (Box.wellFormed_iff _).2 ⟨saturate_mono ?_, saturate_mono ?_, saturate_mono ?_⟩,
    within_saturate _, within_saturate _, within_saturate _, within_saturate _, within_saturate _,
    within_saturate _⟩ <;> omega

/-! ### Answers -/

/-- An owner's answer to an arm request keeps the ranges, and its data fit. -/
structure Answer.FitsFrom (s : State) (a : Answer) : Prop where
  state : Keeps s a.state
  data : s.Readable → a.data.Fits := by exact fun _ => trivial

/-- An owner's answer to a cell controller command keeps the ranges, and its data fit. -/
structure CellAnswer.FitsFrom (s : State) (a : CellAnswer) : Prop where
  state : Keeps s a.state
  data : s.Readable → a.data.Fits := by exact fun _ => trivial

/-- A step keeps the ranges; the replies held fit, where what they are read from was in its range. -/
structure StepKeeps (s t : State) : Prop extends KeepsRanges s t where
  replies : s.Readable → s.RepliesFit → t.RepliesFit

theorem Keeps.step {s t : State} (h : Keeps s t) : StepKeeps s t :=
  { h.toKeepsRanges with replies := fun _ => h.replies }

theorem takeArmFrame_keeps {s t : State} {p : Arm} {kind : Byte} {owner : State → Answer}
    (ha : (owner s).FitsFrom s) (h : takeArmFrame p kind owner s = .next t) : StepKeeps s t := by
  cases hr : s.inReset with
  | true =>
    rw [takeArmFrame_held hr] at h
    cases h
    exact (Keeps.refl s).step
  | false =>
    rw [takeArmFrame_next hr] at h
    cases h
    have hreply : KeepsRanges (owner s).state ((owner s).state.replyArm p kind (owner s).result (owner s).data) :=
      keepsRanges_setLink (fun hq => (List.tail_sublist _).length_le.trans hq) id
    exact { ha.state.toKeepsRanges.trans hreply with
      replies := fun hs hf => repliesFit_setLink (ha.state.replies hf) (ha.data hs) }

theorem takeCellFrame_keeps {s t : State} {kind : Byte} {owner : State → CellAnswer}
    (ha : (owner s).FitsFrom s) (h : takeCellFrame kind owner s = .next t) : StepKeeps s t := by
  cases hr : s.inReset with
  | true =>
    rw [takeCellFrame_held hr] at h
    cases h
    exact (Keeps.refl s).step
  | false =>
    rw [takeCellFrame_next hr] at h
    cases h
    have hreply : KeepsRanges (owner s).state
        ((owner s).state.replyCell kind (owner s).result (owner s).clamped (owner s).data) := {}
    exact { ha.state.toKeepsRanges.trans hreply with
      replies := fun hs hf => by
        obtain ⟨harm, -⟩ := ha.state.replies hf
        exact ⟨harm, ha.data hs⟩ }

theorem takeEvent_keeps {s t : State} {effect : State → State} (he : Keeps s (effect s))
    (h : takeEvent effect s = .next t) : StepKeeps s t := by
  unfold takeEvent at h
  cases h
  split
  · exact (Keeps.refl s).step
  · exact he.step

theorem refuse_fits (s : State) (r : Result) : (refuse s r).FitsFrom s := { state := .refl s }

theorem gateRequest_fits {s : State} {p : Arm} {owner : State → Answer} (h : (owner s).FitsFrom s) :
    (gateRequest p owner s).FitsFrom s := by
  unfold gateRequest
  split
  · exact refuse_fits s _
  · split
    · exact refuse_fits s _
    · exact h

/-! ### The owners of arm requests -/

theorem attachOwner_fits (p : Arm) (s : State) : (attachOwner p s).FitsFrom s := by
  unfold attachOwner
  split
  · exact refuse_fits s _
  · split
    · exact refuse_fits s _
    · exact { state := keeps_setGuard s p _ }

theorem detachOwner_fits (p : Arm) (s : State) : (detachOwner p s).FitsFrom s := by
  unfold detachOwner
  split
  · exact refuse_fits s _
  · split
    · exact refuse_fits s _
    · exact { state := (keeps_setGuard s p _).trans (keeps_clearFresh _ p) }

/-- What a report leaves in the record comes from the envelope arithmetic (R22). -/
theorem keeps_recordReport (s : State) (p : Arm) (request : ProfileName) (xa ya za : Int) (speed : Nat) :
    Keeps s (s.recordReport p request (s.envelope p request xa ya za speed)) :=
  keeps_setRecord fun ⟨hcal, _⟩ _ l hl => by
    cases hl
    exact sweptBox_inBin (hcal p) _ _ _

theorem keeps_markExit (s : State) (p : Arm) (part : Option Box) : Keeps s (s.markExit p part) :=
  keeps_retireAndRescreen s (s.exits p part) (some .retired) true

/-- The verdict's hand-off, with the entry and exit marking behind it (R101). -/
theorem keeps_handOff (s : State) (p : Arm) (v : Verdict) (part : Option Box) :
    Keeps s (((s.takeVerdict p v).markEntry p part).markExit p part) :=
  ((keeps_takeVerdict s p v).trans (keeps_markEntry _ p part)).trans (keeps_markExit _ p part)

theorem reportOwner_fits (p : Arm) (request : ProfileName) (xa ya za : Int) (speed : Nat) (s : State) :
    (reportOwner p request xa ya za speed s).FitsFrom s := by
  have hrecorded := (keeps_returnFromLost s p).trans (keeps_recordReport _ p request xa ya za speed)
  unfold reportOwner
  refine { state := ?_, data := fun _ => ?_ }
  · dsimp only
    exact hrecorded.trans (keeps_handOff _ p _ _)
  · exact (stoppingDistance_le _ _).trans (by decide)

/-- The box of a new claim is the bin cut of the box sent (R38). -/
theorem checkBox_inBin {sent b : Box} (h : checkBox sent = some b) : b.inBin := by
  unfold checkBox at h
  split at h
  · next hwf => exact Box.binCut_inBin hwf h
  · cases h

theorem decideClaim_fits {s : State} {k : Fin 24} {c : ClaimData} (h : c.box.inBin) :
    (decideClaim s k c).FitsFrom s := by
  have hbody {b : SlotBody} (hb : b.claim = some c) : Keeps s (s.setBody k b) :=
    keeps_setSlot fun _ d hd => by rw [hb] at hd; cases hd; exact h
  unfold decideClaim
  dsimp only
  split
  · exact { state := (hbody rfl).trans (keeps_joinBlockers _ _ _ _ _) }
  · split
    · exact refuse_fits s _
    · split
      · exact refuse_fits s _
      · exact { state := ((hbody rfl).trans (keeps_waitList _ _)).trans (keeps_joinBlockers _ _ _ _ _) }

theorem claimOwner_fits (p : Arm) (cls : Byte) (box : RawBox) (s : State) : (claimOwner p cls box s).FitsFrom s := by
  unfold claimOwner
  split
  · exact refuse_fits s _
  · split
    · exact refuse_fits s _
    · split
      · exact refuse_fits s _
      · next b hb =>
        split
        · exact refuse_fits s _
        · split
          · exact refuse_fits s _
          · exact decideClaim_fits (checkBox_inBin hb)

theorem withHandle_fits {p : Arm} {slot gen : Byte} {s : State} {act : Fin 24 → ClaimData → Answer}
    (h : ∀ k c, (s.body k).claim = some c → (act k c).FitsFrom s) : (withHandle p slot gen s act).FitsFrom s := by
  unfold withHandle
  split
  · exact refuse_fits s _
  · next k _ =>
    split
    · exact refuse_fits s _
    · next c hc =>
      split
      · exact h k c hc
      · exact refuse_fits s _

theorem releaseOwner_fits (p : Arm) (slot gen : Byte) (s : State) : (releaseOwner p slot gen s).FitsFrom s := by
  refine withHandle_fits fun k c hc => ?_
  have hleave :
      (if partIntersects (s.binPart p) c.box then
        { state := s.setBody k (.releasing c), result := .releasing, data := .empty }
      else
        { state := s.retireAndRescreen [k] none false, result := .retired, data := .empty } : Answer).FitsFrom s := by
    split
    · exact { state := keeps_setBody fun d hd => by cases hd; exact hc }
    · exact { state := keeps_retireAndRescreen s [k] none false }
  unfold releaseSlot
  split
  · exact refuse_fits s _
  · exact refuse_fits s _
  · exact { state := .refl s }
  · exact hleave
  · exact hleave

theorem cancelOwner_fits (p : Arm) (slot gen : Byte) (s : State) : (cancelOwner p slot gen s).FitsFrom s := by
  refine withHandle_fits fun k c _ => ?_
  split
  · exact { state := keeps_retireAndRescreen s [k] none false }
  · exact refuse_fits s _

theorem queryOwner_fits (p : Arm) (slot gen : Byte) (s : State) : (queryOwner p slot gen s).FitsFrom s :=
  withHandle_fits fun k _ _ => { state := .refl s, data := fun h => tensOfMs_le (h.remaining_le k) }

theorem listOwner_fits (p : Arm) (start : Byte) (s : State) : (listOwner p start s).FitsFrom s where
  state := keeps_setLink id id id
  data _ := ⟨(countOf_le s p).trans (by decide), by
    show (s.listEntries p start.toNat).length ≤ 4
    unfold State.listEntries
    rw [List.length_map]
    exact List.length_take_le _ _⟩

theorem ackstopOwner_fits (p : Arm) (s : State) : (ackstopOwner p s).FitsFrom s := by
  unfold ackstopOwner
  split
  · exact refuse_fits s _
  · exact { state := (keeps_setGuard s p _).trans (keeps_resumeCheck _ p) }

end Sys2Proof.Machine
end

section
/-! PROOFS. The owners of the cell controller's commands, the failed frames and the resets keep the bounded things in
their ranges, and with them every step does: O52. -/

namespace Sys2Proof.Machine

/-! ### Clamped settings -/

theorem within_toInt (h : Half) : within (-32768) 32767 h.toInt := by
  have hlo := BitVec.le_toInt h
  have hhi := BitVec.toInt_lt (x := h)
  unfold within
  omega

theorem within_clampInt {lo hi : Int} (h : lo ≤ hi) (x : Int) : within lo hi (clampInt lo hi x) := by
  unfold within clampInt
  omega

theorem calibrationSent_clamped_inRange (c s ox oy oz rxy rz : Half) :
    (calibrationSent c s ox oy oz rxy rz).clamped.inRange :=
  ⟨within_clampInt (by decide) _, within_clampInt (by decide) _, within_toInt ox, within_toInt oy, within_toInt oz,
    within_clampInt (by decide) _, within_clampInt (by decide) _⟩

theorem profileSent_clamped_inRange (decel react cap : Half) : (profileSent decel react cap).clamped.inRange := by
  have hdecel := decel.isLt
  simp only [Profile.inRange, Profile.clamped, profileSent]
  omega

theorem timingClamped_inRange (code entry wait : Byte) (clearance : Half) (qa qb : Byte) :
    (timingClamped code entry wait clearance qa qb).inRange := by
  have hentry := entry.isLt
  have hwait := wait.isLt
  simp only [Timing.inRange, timingClamped]
  refine ⟨by omega, by omega, by omega, by omega, by omega, fun p => ?_⟩
  cases p <;> simp only [PerArm.get, clampNat] <;> omega

theorem PerArm.forall_get_set {α : Type} {P : α → Prop} {v : PerArm α} {p : Arm} {x : α} (hv : ∀ q, P (v.get q))
    (hx : P x) (q : Arm) : P ((v.set p x).get q) := by
  rw [PerArm.get_set]
  split
  · exact hx
  · exact hv q

theorem ProfilePair.get_set (v : ProfilePair) (m n : ProfileName) (x : Profile) :
    (v.set m x).get n = if n = m then x else v.get n := by
  cases m <;> cases n <;> rfl

/-! ### The owners of commands -/

theorem refuseCell_fits (s : State) (r : Result) : (refuseCell s r).FitsFrom s := { state := .refl s }

theorem configOnly_fits {s : State} {owner : State → CellAnswer} (h : (owner s).FitsFrom s) :
    (configOnly owner s).FitsFrom s := by
  unfold configOnly
  split
  · exact h
  · exact refuseCell_fits s _

theorem keeps_table {s : State} {v : Vector Slot 24} {w : List (Fin 24)}
    (h : ∀ (k : Fin 24) c, v[k].body.claim = some c → (s.body k).claim = some c) :
    Keeps s { s with slots := v, waitList := w } := (keeps_slots h).trans (keeps_waitList _ w)

theorem keeps_tearDown (s : State) : Keeps s s.tearDown := by
  unfold State.tearDown
  refine keeps_table fun k c hc => ?_
  rw [Fin.getElem_fin, Vector.getElem_ofFn] at hc
  split at hc
  · exact hc
  · cases hc

/-- Entry to CONFIG beyond the table: the queues are emptied and the report records invalid (R189). -/
theorem keeps_atConfig (s : State) :
    Keeps s { s with
      mode := .config
      links := { a := s.links.a.atConfig, b := s.links.b.atConfig }
      guards := { a := Guard.reset, b := Guard.reset }
      records := { a := s.records.a.atConfig, b := s.records.b.atConfig } } where
  queues _ p := by cases p <;> exact Nat.zero_le _
  counters := by
    rintro ⟨herr, hrest⟩
    exact ⟨fun p => by cases p; exacts [herr .a, herr .b], hrest⟩
  parts _ _ p l hl := by cases p <;> cases hl
  replies := by
    rintro ⟨harm, hcell⟩
    exact ⟨fun p => by cases p; exacts [harm .a, harm .b], hcell⟩

theorem setModeOwner_fits (target : Byte) (s : State) : (setModeOwner target s).FitsFrom s := by
  have hconfig : (enterConfigOwner s).FitsFrom s := by
    unfold enterConfigOwner
    split
    · exact { state := .refl s }
    · split
      · exact refuseCell_fits s _
      · exact { state := (keeps_tearDown s).trans (keeps_atConfig _) }
  have hrun : (enterRunOwner s).FitsFrom s := by
    unfold enterRunOwner
    split
    · exact { state := .refl s }
    · split
      · exact { state := .refl s }
      · exact { state := {} }
  unfold setModeOwner
  split
  · exact hconfig
  · exact hrun
  · exact refuseCell_fits s _

theorem loadCalOwner_fits (arm : Byte) {sent : Calibration} (h : sent.clamped.inRange) (s : State) :
    (loadCalOwner arm sent s).FitsFrom s := by
  unfold loadCalOwner
  split
  · exact refuseCell_fits s _
  · exact { state := { settings := fun ⟨hcal, hrest⟩ => ⟨PerArm.forall_get_set hcal h, hrest⟩ } }

theorem loadProfileOwner_fits (arm profile : Byte) {sent : Profile} (h : sent.clamped.inRange) (s : State) :
    (loadProfileOwner arm profile sent s).FitsFrom s := by
  unfold loadProfileOwner
  split
  · next p n _ _ =>
    refine { state := { settings := fun ⟨hcal, hprof, hrest⟩ => ⟨hcal, ?_, hrest⟩ } }
    refine PerArm.forall_get_set (P := fun v : ProfilePair => ∀ m, (v.get m).inRange) hprof fun m => ?_
    rw [ProfilePair.get_set]
    split
    · exact h
    · exact hprof p m
  · exact refuseCell_fits s _

theorem loadTimingOwner_fits (code entry wait : Byte) (clearance : Half) (qa qb : Byte) (s : State) :
    (loadTimingOwner code entry wait clearance qa qb s).FitsFrom s where
  state := { settings := fun ⟨hcal, hprof, _, hline⟩ =>
    ⟨hcal, hprof, timingClamped_inRange code entry wait clearance qa qb, hline⟩ }

theorem setLineOwner_fits (line func polarity debounce : Byte) (s : State) :
    (setLineOwner line func polarity debounce s).FitsFrom s := by
  unfold setLineOwner
  split
  · exact { state := keeps_configureLine s _ _ _ (Nat.min_le_right _ _) }
  · exact refuseCell_fits s _

theorem setGeometryOwner_fits (geometry : Byte) (s : State) : (setGeometryOwner geometry s).FitsFrom s := by
  unfold setGeometryOwner
  split
  · exact refuseCell_fits s _
  · exact { state := keeps_keepOut fun _ => clear_wf }

theorem mapFillOwner_fits (code : Byte) (box : RawBox) (s : State) : (mapFillOwner code box s).FitsFrom s := by
  unfold mapFillOwner
  split
  · exact refuseCell_fits s _
  · split
    · exact refuseCell_fits s _
    · next b hb =>
      obtain ⟨-, hin⟩ := checkBox_inBin hb
      exact {
        state := keeps_keepOut fun hm => fillCells_wf _ _ hm _ (touchedCells_lt _ hin)
        data := fun _ => (length_touchedCells_le _ hin).trans (by decide) }

theorem mapClearOwner_fits (s : State) : (mapClearOwner s).FitsFrom s where
  state := keeps_keepOut fun _ => clear_wf

theorem mapCursorOwner_fits (index : Half) (s : State) : (mapCursorOwner index s).FitsFrom s := by
  unfold mapCursorOwner
  split
  · exact { state := keeps_cell id id }
  · exact { state := keeps_cell id id }

theorem mapReadOwner_fits (s : State) : (mapReadOwner s).FitsFrom s where
  state := keeps_cell id id
  data _ := (List.length_map _).trans List.length_range

theorem groupSetOwner_fits (group value : Byte) (s : State) : (groupSetOwner group value s).FitsFrom s := by
  unfold groupSetOwner
  split
  · next g v _ _ =>
    have hflags : Keeps s { s with keepOut := { s.keepOut with flags := s.keepOut.flags.set g v } } := keeps_keepOut id
    refine { state := ?_ }
    dsimp only
    exact keeps_afterSources hflags
  · exact refuseCell_fits s _

theorem forceProfileOwner_fits (arm value : Byte) (s : State) : (forceProfileOwner arm value s).FitsFrom s := by
  unfold forceProfileOwner
  split
  · exact { state := keeps_setRecord_last rfl }
  · exact refuseCell_fits s _

theorem stopOwner_fits (arm : Byte) (s : State) : (stopOwner arm s).FitsFrom s := by
  unfold stopOwner
  split
  · exact refuseCell_fits s _
  · next p _ =>
    cases s.armState p with
    | run | stopped => exact { state := keeps_stopArm s p _ }
    | detached | lost => exact refuseCell_fits s _

theorem resumeOwner_fits (arm : Byte) (s : State) : (resumeOwner arm s).FitsFrom s := by
  unfold resumeOwner
  split
  · exact refuseCell_fits s _
  · split
    · exact { state := (keeps_setGuard s _ _).trans (keeps_resumeCheck _ _) }
    · exact refuseCell_fits s _

theorem purgeArmOwner_fits (arm : Byte) (s : State) : (purgeArmOwner arm s).FitsFrom s := by
  unfold purgeArmOwner
  split
  · exact refuseCell_fits s _
  · next p _ =>
    split
    · exact refuseCell_fits s _
    · exact {
        state := keeps_retireAndRescreen s (s.claimsOf p) (some .purged) false
        data := fun _ => (countOf_le s p).trans (by decide) }

theorem purgeClaimOwner_fits (slot gen : Byte) (s : State) : (purgeClaimOwner slot gen s).FitsFrom s := by
  unfold purgeClaimOwner
  split
  · exact refuseCell_fits s _
  · next k _ =>
    split
    · exact refuseCell_fits s _
    · split
      · exact refuseCell_fits s _
      · exact {
          state := keeps_retireAndRescreen s [k] (some .purged) false
          data := fun _ => show 1 ≤ 255 by decide }

theorem setCursorOwner_fits (slot : Byte) (s : State) : (setCursorOwner slot s).FitsFrom s := by
  unfold setCursorOwner
  split
  · exact { state := keeps_cell id id }
  · exact { state := keeps_cell id id }

theorem readClaimOwner_fits (s : State) : (readClaimOwner s).FitsFrom s where
  state := keeps_cell id id
  data h := by
    obtain ⟨hnodup, -⟩ := h.waitList
    exact ⟨fun c hc => Box.inFields_of_inBin (h.boxes _ c hc), (h.remaining_le _).trans (by decide),
      (waitPosition_le hnodup _).trans (by decide)⟩

theorem readArmOwner_fits (arm : Byte) (s : State) : (readArmOwner arm s).FitsFrom s := by
  unfold readArmOwner
  split
  · exact refuseCell_fits s _
  · next p _ => exact { state := .refl s, data := fun h l hl => LastReport.inFields (h.parts p l hl) }

theorem okOutputs_fits {s t : State} (h : Keeps s t) : (okOutputs t).FitsFrom s where
  state := h
  data _ := (List.length_map _).trans List.length_finRange

theorem setOutOwner_fits (lines values : Byte) (s : State) : (setOutOwner lines values s).FitsFrom s :=
  okOutputs_fits (keeps_writeOutputs s _)

theorem toggleOutOwner_fits (lines : Byte) (s : State) : (toggleOutOwner lines s).FitsFrom s :=
  okOutputs_fits (keeps_writeOutputs s _)

theorem readLines_fits (s : State) : (okRead s (.lines s.readings s.estopActive)).FitsFrom s where
  state := .refl s
  data _ := (List.length_map _).trans List.length_finRange

theorem readCounters_fits (s : State) : (okRead s s.counters).FitsFrom s where
  state := .refl s
  data h := by
    obtain ⟨herr, hcell, hwait, hhalt⟩ := h.counters
    refine ⟨rfl, fun e he => ?_, rfl, fun a ha => ?_⟩
    · simp only [List.mem_cons, List.not_mem_nil, or_false] at he
      rcases he with rfl | rfl | rfl
      exacts [(herr .a).trans (by decide), (herr .b).trans (by decide), hcell.trans (by decide)]
    · simp only [List.mem_cons, List.not_mem_nil, or_false] at ha
      rcases ha with rfl | rfl | rfl | rfl
      exacts [hwait .a, hwait .b, hhalt .a, hhalt .b]

theorem keeps_clearFlags (s : State) (named : Half) : Keeps s (s.clearFlags named) := keeps_updSticky s _

theorem setMaskOwner_fits (mask : Half) (s : State) : (setMaskOwner mask s).FitsFrom s where
  state := keeps_events (e := { s.events with mask := mask }) (fun _ => id) fun _ => id

theorem keeps_clearErrors (s : State) (p : Arm) (named : Bool) : Keeps s (s.clearErrors p named) := by
  unfold State.clearErrors
  split
  · exact keeps_setLink id (fun _ => Nat.zero_le _) id
  · exact .refl s

theorem Accumulator.clearIf_le {a : Accumulator} (h : a.value ≤ Config.accumulatorMax) (named : Bool) :
    (a.clearIf named).value ≤ Config.accumulatorMax := by
  unfold Accumulator.clearIf
  split
  · exact Nat.zero_le _
  · exact h

theorem clearCountersOwner_fits (set : Byte) (s : State) : (clearCountersOwner set s).FitsFrom s := by
  have harms := (keeps_clearErrors s .a (set.getLsbD 0)).trans (keeps_clearErrors _ .b (set.getLsbD 1))
  have hcell : ∀ u : State, Keeps u (if set.getLsbD 2 then { u with cell := { u.cell with errors := 0 } } else u) := by
    intro u
    split
    · exact keeps_cell (fun _ => Nat.zero_le _) id
    · exact .refl u
  refine { state := (harms.trans (hcell _)).trans (keeps_events (fun p h => ?_) fun p h => ?_) }
  · cases p <;> exact Accumulator.clearIf_le h _
  · cases p <;> exact Accumulator.clearIf_le h _

theorem setAccEnableOwner_fits (enables : Byte) (s : State) : (setAccEnableOwner enables s).FitsFrom s := by
  refine { state := keeps_events (fun p h => ?_) fun p h => ?_ }
  · cases p <;> exact h
  · cases p <;> exact h

/-! ### Failed frames and resets -/

theorem keeps_countError (s : State) (link : Link) : Keeps s (s.countError link) := by
  cases link with
  | arm p => exact keeps_setLink id (fun _ => Nat.min_le_right _ _) id
  | cell => exact keeps_cell (fun _ => Nat.min_le_right _ _) id

/-- A failed frame is counted, flagged, and answered with no data (R178, R184). -/
theorem keeps_failFrame (s : State) (link : Link) : Keeps s (s.failFrame link) := by
  have hcount := keeps_countError s link
  cases link with
  | arm p =>
    exact (hcount.trans (keeps_updSticky _ _)).trans (keeps_setLink id id fun _ => trivial)
  | cell => exact (hcount.trans (keeps_updSticky _ _)).trans (keeps_cell id fun _ => trivial)

theorem keeps_setIncoming (s : State) (link : Link) (x : Option (List Byte)) : Keeps s (s.setIncoming link x) := by
  cases link with
  | arm p => exact keeps_setLink id id id
  | cell => exact keeps_cell id id

theorem keeps_abandonFrames (s : State) : Keeps s s.abandonFrames :=
  ((keeps_setIncoming s _ _).trans (keeps_setIncoming _ _ _)).trans (keeps_setIncoming _ _ _)

theorem body_endReset (s : State) (k : Fin 24) : s.endReset.body k = .free := by
  simp [State.endReset, State.reset, State.body, State.slot, Slot.reset]

theorem line_endReset (s : State) (n : Fin 8) : s.endReset.line n = Line.resetAt (s.line n).wire := by
  simp [State.endReset, State.line]

theorem timing_reset_inRange : Timing.reset.inRange :=
  ⟨by decide, by decide, by decide, by decide, by decide, fun p => by cases p <;> decide⟩

/-- Every reset value lies in its range (R9, R106, R163, R191). -/
theorem endReset_settings (s : State) : s.endReset.SettingsInRange := by
  refine ⟨fun p => ?_, fun p n => ?_, timing_reset_inRange, fun n => ?_⟩
  · cases p <;> simp [State.endReset, State.reset, PerArm.get, Calibration.reset, Calibration.inRange, within]
  · cases p <;> cases n <;>
      simp [State.endReset, State.reset, PerArm.get, ProfilePair.reset, ProfilePair.get, Profile.inRange]
  · rw [line_endReset]
    show 2 ≤ 15
    decide

theorem keeps_endReset (s : State) : Keeps s s.endReset where
  settings _ := endReset_settings s
  queues _ p := by cases p <;> exact Nat.zero_le _
  counters _ := by
    refine ⟨fun p => ?_, Nat.zero_le _, fun p => ?_, fun p => ?_⟩ <;> cases p <;> exact Nat.zero_le _
  map _ := reset_map_wf
  boxes _ k c hc := by rw [body_endReset] at hc; cases hc
  parts _ _ p l hl := by cases p <;> cases hl
  replies _ := ⟨fun p => by cases p <;> exact trivial, trivial⟩

theorem execResetnRelease_keeps {s t : State} (h : execResetnRelease s = .next t) : Keeps s t := by
  unfold execResetnRelease at h
  cases h
  split
  · exact {}
  · exact keeps_endReset s

theorem execPowerOnReset_keeps {s t : State} (h : execPowerOnReset s = .next t) : Keeps s t := by
  unfold execPowerOnReset at h
  cases h
  split
  · exact (keeps_abandonFrames s).trans {}
  · exact keeps_endReset s

/-! ### Every command -/

/-- Each command by its own meaning: a frame by its owner, an event by its effect. -/
theorem exec_keeps {i : Instr} {s t : State} (h : exec i s = .next t) : StepKeeps s t := by
  cases i <;> dsimp only [exec] at h
  case nop arm => exact takeArmFrame_keeps { state := .refl s } h
  case attach arm => exact takeArmFrame_keeps (gateRequest_fits (attachOwner_fits arm s)) h
  case detach arm => exact takeArmFrame_keeps (gateRequest_fits (detachOwner_fits arm s)) h
  case report arm arg xa ya za v =>
    refine takeArmFrame_keeps ?_ h
    split
    · exact refuse_fits s _
    · exact reportOwner_fits arm _ _ _ _ _ s
  case claim arm cls box => exact takeArmFrame_keeps (gateRequest_fits (claimOwner_fits arm cls box s)) h
  case release arm slot gen => exact takeArmFrame_keeps (gateRequest_fits (releaseOwner_fits arm slot gen s)) h
  case cancel arm slot gen => exact takeArmFrame_keeps (gateRequest_fits (cancelOwner_fits arm slot gen s)) h
  case query arm slot gen => exact takeArmFrame_keeps (gateRequest_fits (queryOwner_fits arm slot gen s)) h
  case list arm start => exact takeArmFrame_keeps (gateRequest_fits (listOwner_fits arm start s)) h
  case ackstop arm => exact takeArmFrame_keeps (gateRequest_fits (ackstopOwner_fits arm s)) h
  case unknownKind link kind =>
    cases link <;> dsimp only [execUnknownKind] at h
    case arm p => exact takeArmFrame_keeps (refuse_fits s _) h
    case cell => exact takeCellFrame_keeps (refuseCell_fits s _) h
  case frameFailed link => exact takeEvent_keeps (keeps_failFrame s link) h
  case cellNop => exact takeCellFrame_keeps { state := .refl s } h
  case ident => exact takeCellFrame_keeps { state := .refl s } h
  case setModeRun target => exact takeCellFrame_keeps (setModeOwner_fits target s) h
  case setModeConfig => exact takeCellFrame_keeps (setModeOwner_fits 0 s) h
  case loadCal arm c sn ox oy oz rxy rz =>
    exact takeCellFrame_keeps
      (configOnly_fits (loadCalOwner_fits arm (calibrationSent_clamped_inRange c sn ox oy oz rxy rz) s)) h
  case loadProfile arm profile decel react cap =>
    exact takeCellFrame_keeps
      (configOnly_fits (loadProfileOwner_fits arm profile (profileSent_clamped_inRange decel react cap) s)) h
  case loadTiming code entry wait clearance quotaA quotaB =>
    exact takeCellFrame_keeps (configOnly_fits (loadTimingOwner_fits code entry wait clearance quotaA quotaB s)) h
  case setLine line func polarity debounce =>
    exact takeCellFrame_keeps (configOnly_fits (setLineOwner_fits line func polarity debounce s)) h
  case setGeometry geometry => exact takeCellFrame_keeps (configOnly_fits (setGeometryOwner_fits geometry s)) h
  case mapFill code box => exact takeCellFrame_keeps (configOnly_fits (mapFillOwner_fits code box s)) h
  case mapClear => exact takeCellFrame_keeps (configOnly_fits (mapClearOwner_fits s)) h
  case mapCursor index => exact takeCellFrame_keeps (configOnly_fits (mapCursorOwner_fits index s)) h
  case mapRead => exact takeCellFrame_keeps (mapReadOwner_fits s) h
  case groupSet group value => exact takeCellFrame_keeps (groupSetOwner_fits group value s) h
  case forceProfile arm value => exact takeCellFrame_keeps (forceProfileOwner_fits arm value s) h
  case stop arm => exact takeCellFrame_keeps (stopOwner_fits arm s) h
  case resume arm => exact takeCellFrame_keeps (resumeOwner_fits arm s) h
  case purgeArm arm => exact takeCellFrame_keeps (purgeArmOwner_fits arm s) h
  case purgeClaim slot gen => exact takeCellFrame_keeps (purgeClaimOwner_fits slot gen s) h
  case setCursor slot => exact takeCellFrame_keeps (setCursorOwner_fits slot s) h
  case readClaim => exact takeCellFrame_keeps (readClaimOwner_fits s) h
  case readArm arm => exact takeCellFrame_keeps (readArmOwner_fits arm s) h
  case setOut lines values => exact takeCellFrame_keeps (setOutOwner_fits lines values s) h
  case toggleOut lines => exact takeCellFrame_keeps (toggleOutOwner_fits lines s) h
  case readLines => exact takeCellFrame_keeps (readLines_fits s) h
  case readEvents => exact takeCellFrame_keeps { state := .refl s } h
  case clearEvents flags => exact takeCellFrame_keeps { state := keeps_clearFlags s flags } h
  case setMask mask => exact takeCellFrame_keeps (setMaskOwner_fits mask s) h
  case readCounters => exact takeCellFrame_keeps (readCounters_fits s) h
  case clearCounters set => exact takeCellFrame_keeps (clearCountersOwner_fits set s) h
  case setAccEnable enables => exact takeCellFrame_keeps (setAccEnableOwner_fits enables s) h
  case lapse slot => exact takeEvent_keeps (keeps_lapseSlot s slot) h
  case waitExpiry slot => exact takeEvent_keeps (keeps_expireWait s slot) h
  case reportTimerExpiry arm => exact takeEvent_keeps (keeps_expireReportTimer s arm) h
  case rawLevelChange line level => cases h; exact (keeps_changeRaw s line level).step
  case filterTimerExpiry line => exact takeEvent_keeps (keeps_expireFilter s line) h
  case accumulatorStep => exact takeEvent_keeps (keeps_millisecond s) h
  case resetnAssert => cases h; exact ((keeps_abandonFrames s).trans {}).step
  case resetnRelease => exact (execResetnRelease_keeps h).step
  case powerOnReset => exact (execPowerOnReset_keeps h).step
  case supplyBelowPowerOnThreshold => cases h; exact ((keeps_abandonFrames s).trans {}).step

/-- Taking the front command off the queue touches nothing bounded. -/
theorem step_keeps {s t : State} (h : step s = .next t) : StepKeeps s t := by
  unfold step at h
  split at h
  · cases h
    exact (Keeps.refl s).step
  · next i rest hp =>
    have hpop : Keeps s { s with pending := rest } := {}
    have hexec := exec_keeps h
    exact { hpop.toKeepsRanges.trans hexec.toKeepsRanges with
      replies := fun hs hf =>
        hexec.replies ⟨hs.settings, hs.timers, hs.counters, hs.boxes, hs.parts, hs.waitList⟩ (hpop.replies hf) }

/-- Settles O52: every step is a step that keeps the ranges, and the replies fit where what they read is in range. -/
theorem stepKeepsRanges : Obligations.StepKeepsRanges := by
  refine ⟨⟨rfl, rfl, rfl⟩, fun s t h => ?_⟩
  have hk := step_keeps h
  exact ⟨hk.settings, hk.queues, hk.counters, hk.map, hk.boxes, hk.parts,
    fun hset htime hcount hbox hpart hwait => hk.replies ⟨hset, htime, hcount, hbox, hpart, hwait⟩⟩

end Sys2Proof.Machine
end

section
/-! PROOFS. The settings and map commands that are taken in CONFIG alone: what the loads replace, and their refusal in
RUN (section 10.2, R10, R106, R192, R193): O33 and O30. -/

namespace Sys2Proof.Machine

/-! ### What a load answers -/

theorem exec_loadCal {s : State} (hr : s.inReset = false) (hm : s.mode = .config) {arm : Byte} {p : Arm}
    (ha : arm.toNat = armCode p) (c sn ox oy oz rxy rz : Half) :
    exec (.loadCal arm c sn ox oy oz rxy rz) s = .next
      ({ s with cal := s.cal.set p (calibrationSent c sn ox oy oz rxy rz).clamped }.replyCell 0x03 .ok
        (decide ((calibrationSent c sn ox oy oz rxy rz).clamped ≠ calibrationSent c sn ox oy oz rxy rz)) .empty) := by
  refine (takeCellFrame_next hr _ _).trans ?_
  rw [configOnly_pass hm]
  unfold loadCalOwner
  rw [(armOf_eq_some arm p).2 ha]
  rfl

theorem armOf_eq_none {arm : Byte} (h : 1 < arm.toNat) : armOf arm = none := by
  rw [Option.eq_none_iff_forall_not_mem]
  intro p hp
  have hcode := (armOf_eq_some arm p).1 hp
  cases p <;> simp only [armCode] at hcode <;> omega

theorem exec_loadCal_badArg {s : State} (hr : s.inReset = false) (hm : s.mode = .config) {arm : Byte}
    (ha : 1 < arm.toNat) (c sn ox oy oz rxy rz : Half) :
    exec (.loadCal arm c sn ox oy oz rxy rz) s = .next (s.replyCell 0x03 .badArg false .empty) := by
  refine (takeCellFrame_next hr _ _).trans ?_
  rw [configOnly_pass hm]
  unfold loadCalOwner
  rw [armOf_eq_none ha]
  rfl

theorem profileOf_eq_some (b : Byte) (n : ProfileName) : profileOf b = some n ↔ b.toNat = n.code := by
  unfold profileOf
  split
  · next h => rw [h]; cases n <;> decide
  · next h => rw [h]; cases n <;> decide
  · next h0 h1 =>
    cases n
    · exact ⟨nofun, fun h => (h0 h).elim⟩
    · exact ⟨nofun, fun h => (h1 h).elim⟩

theorem profileOf_eq_none {b : Byte} (h : 1 < b.toNat) : profileOf b = none := by
  rw [Option.eq_none_iff_forall_not_mem]
  intro n hn
  have hcode := (profileOf_eq_some b n).1 hn
  cases n <;> simp only [ProfileName.code] at hcode <;> omega

theorem exec_loadProfile {s : State} (hr : s.inReset = false) (hm : s.mode = .config) {arm name : Byte} {p : Arm}
    {n : ProfileName} (ha : arm.toNat = armCode p) (hn : name.toNat = n.code) (decel react cap : Half) :
    exec (.loadProfile arm name decel react cap) s = .next
      (State.replyCell
        { s with profiles := s.profiles.set p ((s.profiles.get p).set n (profileSent decel react cap).clamped) }
        0x04 .ok (decide ((profileSent decel react cap).clamped ≠ profileSent decel react cap)) .empty) := by
  refine (takeCellFrame_next hr _ _).trans ?_
  rw [configOnly_pass hm]
  unfold loadProfileOwner
  rw [(armOf_eq_some arm p).2 ha, (profileOf_eq_some name n).2 hn]
  rfl

theorem exec_loadProfile_badArg {s : State} (hr : s.inReset = false) (hm : s.mode = .config) {arm name : Byte}
    (h : 1 < arm.toNat ∨ 1 < name.toNat) (decel react cap : Half) :
    exec (.loadProfile arm name decel react cap) s = .next (s.replyCell 0x04 .badArg false .empty) := by
  have howner : loadProfileOwner arm name (profileSent decel react cap) s = refuseCell s .badArg := by
    unfold loadProfileOwner
    rcases h with h | h
    · rw [armOf_eq_none h]
    · rw [profileOf_eq_none h]
      cases armOf arm <;> rfl
  refine (takeCellFrame_next hr _ _).trans ?_
  rw [configOnly_pass hm, howner]
  rfl

theorem exec_loadTiming {s : State} (hr : s.inReset = false) (hm : s.mode = .config) (code entry wait : Byte)
    (clearance : Half) (qa qb : Byte) :
    exec (.loadTiming code entry wait clearance qa qb) s = .next
      ({ s with timing := timingClamped code entry wait clearance qa qb }.replyCell 0x05 .ok
        (timingChanged code entry wait clearance qa qb) .empty) := by
  refine (takeCellFrame_next hr _ _).trans ?_
  rw [configOnly_pass hm]
  rfl

/-! ### The clamped values, and whether any was changed -/

/-- Of a calibration record's fields only the rotation terms and the extents are clamped (R10). -/
theorem calibrationSent_clamped_ne_iff (c sn ox oy oz rxy rz : Half) :
    (calibrationSent c sn ox oy oz rxy rz).clamped ≠ calibrationSent c sn ox oy oz rxy rz ↔
      clampInt (-16384) 16384 c.toInt ≠ c.toInt ∨ clampInt (-16384) 16384 sn.toInt ≠ sn.toInt ∨
        clampInt 0 1023 rxy.toInt ≠ rxy.toInt ∨ clampInt 0 1023 rz.toInt ≠ rz.toInt := by
  simp only [Calibration.clamped, calibrationSent, ne_eq, Calibration.mk.injEq, true_and, and_true]
  tauto

theorem profileSent_clamped_eq (decel react cap : Half) :
    (profileSent decel react cap).clamped =
      { decel := max 500 decel.toNat, react := min react.toNat 255, cap := min cap.toNat 4095 } := by
  simp only [Profile.clamped, profileSent, Nat.max_comm]

theorem profileSent_clamped_ne_iff (decel react cap : Half) :
    (profileSent decel react cap).clamped ≠ profileSent decel react cap ↔
      decel.toNat < 500 ∨ 255 < react.toNat ∨ 4095 < cap.toNat := by
  simp only [Profile.clamped, profileSent, ne_eq, Profile.mk.injEq]
  omega

theorem timingClamped_reportCode (code entry wait : Byte) (clearance : Half) (qa qb : Byte) :
    (timingClamped code entry wait clearance qa qb).reportCode.val = min code.toNat 7 := by
  unfold timingClamped
  dsimp only
  split
  · next h => exact (Nat.min_eq_left (Nat.le_of_lt_succ h)).symm
  · next h => exact (Nat.min_eq_right (Nat.le_of_lt (Nat.lt_of_not_le (by omega)))).symm

theorem timingChanged_iff (code entry wait : Byte) (clearance : Half) (qa qb : Byte) :
    timingChanged code entry wait clearance qa qb = true ↔
      min code.toNat 7 ≠ code.toNat ∨ max entry.toNat 1 ≠ entry.toNat ∨ max wait.toNat 1 ≠ wait.toNat ∨
        min clearance.toNat 1023 ≠ clearance.toNat ∨ clampNat 1 16 qa.toNat ≠ qa.toNat ∨
        clampNat 1 16 qb.toNat ≠ qb.toNat := by
  simp only [timingChanged, clampNat, Bool.or_eq_true, decide_eq_true_eq]
  omega

theorem clampNat_quota (n : Nat) : clampNat 1 16 n = max 1 (min n 16) := congrArg (max 1) (Nat.min_comm 16 n)

/-- Settles O33: each load is one answer of its owner, whose clamped record and CLAMPED are read off field by field. -/
theorem loadsReplaceSettings : Obligations.LoadsReplaceSettings := by
  intro s hr hm
  refine ⟨fun arm c sn ox oy oz rxy rz => ⟨fun ha => exec_loadCal_badArg hr hm ha .., fun p ha => ?_⟩,
    fun arm name decel react cap =>
      ⟨fun h => exec_loadProfile_badArg hr hm h .., fun p ha => ⟨fun hn => ?_, fun hn => ?_⟩⟩,
    fun code entry wait clearance qa qb =>
      ⟨_, _, exec_loadTiming hr hm .., timingClamped_reportCode .., Nat.max_comm .., Nat.max_comm .., rfl,
        clampNat_quota _, clampNat_quota _, ?_⟩⟩
  · rw [exec_loadCal hr hm ha]
    simp only [calibrationSent_clamped_ne_iff]
    rfl
  · rw [exec_loadProfile (n := .full) hr hm ha hn]
    simp only [profileSent_clamped_ne_iff]
    rw [profileSent_clamped_eq]
    rfl
  · rw [exec_loadProfile (n := .reduced) hr hm ha hn]
    simp only [profileSent_clamped_ne_iff]
    rw [profileSent_clamped_eq]
    rfl
  · rw [timingChanged_iff, timingClamped_reportCode]
    rfl

/-! ### Refusal in RUN -/

/-- In RUN the owner of a command that is taken in CONFIG alone is not asked (section 10.2). -/
theorem takeCellFrame_configOnly_run {s : State} (hr : s.inReset = false) (hm : s.mode = .run) (kind : Byte)
    (owner : State → CellAnswer) :
    takeCellFrame kind (configOnly owner) s = .next (s.replyCell kind .refusedMode false .empty) := by
  rw [takeCellFrame_next hr, configOnly_run hm]
  rfl

/-- Settles O30: the kinds 0x03 to 0x0A are the eight commands behind the gate, and every other kind of the link lies
outside that range. -/
theorem settingsRefusedInRun : Obligations.SettingsRefusedInRun := by
  intro i s kind rest hr hm hwf hc hlo hhi
  have hgate := takeCellFrame_configOnly_run hr hm
  cases i <;> cases hc
  case loadCal => exact hgate ..
  case loadProfile => exact hgate ..
  case loadTiming => exact hgate ..
  case setLine => exact hgate ..
  case setGeometry => exact hgate ..
  case mapFill => exact hgate ..
  case mapClear => exact hgate ..
  case mapCursor => exact hgate ..
  case unknownKind =>
    have hkind : ¬ kind.toNat ≤ 0x1D := by simpa [Instr.wellFormed, Link.kindDefined] using hwf
    omega
  all_goals simp at hlo hhi

end Sys2Proof.Machine
end

section
/-! PROOFS. What a step can do, said once. Every command is a chain of changes, each of which is a move, a change of a
source of group activity or of the e-stop with all that follows from it, or one of the few changes of the settings, the
map and the mode (`Happens`). Here are the changes; the commands follow below, and behind them the laws. -/

namespace Sys2Proof.Machine

/-! ### Moves of one record -/

/-- What one move makes of arm p's guard controller record (R121 to R140). -/
inductive GuardMove (s : State) (p : Arm) : Guard → Prop where
  | same : GuardMove s p (s.guard p)
  | stop (causes : List StopCause) : causes ≠ [] → s.armState p = .run ∨ s.armState p = .stopped →
      GuardMove s p { s.guard p with state := .stopped, causes := (s.guard p).causes.addAll causes,
                                     resumeRequested := false, stopAcknowledged := false }
  | resume : s.armState p = .stopped → s.resumeFits p = true → GuardMove s p (s.guard p).resumed
  | attach : s.mode = .run → s.armState p = .detached → s.attachFits p = true →
      GuardMove s p { s.guard p with state := .run, reportTimer := some s.reportMs }
  | detach : s.armState p = .run → s.countOf p = 0 →
      GuardMove s p { s.guard p with state := .detached, reportTimer := none }
  | lose : s.armState p = .run ∨ s.armState p = .stopped →
      GuardMove s p { state := .lost, causes := (s.guard p).causes.add .link, resumeRequested := false,
                      stopAcknowledged := false, reportTimer := none }
  | back : s.armState p = .lost →
      GuardMove s p { s.guard p with
        state := .stopped
        causes := if s.estopActive then (s.guard p).causes.add .estop else (s.guard p).causes
        reportTimer := some s.reportMs }
  | restart : s.armState p = .run ∨ s.armState p = .stopped →
      GuardMove s p { s.guard p with reportTimer := some s.reportMs }
  | handshake (requested acknowledged : Bool) : s.armState p = .stopped →
      GuardMove s p { s.guard p with resumeRequested := requested, stopAcknowledged := acknowledged }
  | tick : GuardMove s p { s.guard p with reportTimer := (s.guard p).reportTimer.map (· - 1) }

/-- What one move makes of arm p's report record (R103 to R118). -/
inductive RecordMove (s : State) (p : Arm) : ReportRecord → Prop where
  | same : RecordMove s p (s.record p)
  | forced (f : Option ProfileName) : RecordMove s p { s.record p with forced := f }
  | stale : RecordMove s p { s.record p with fresh := false }
  | judged (f : LastReport → Verdict) :
      RecordMove s p { s.record p with last := (s.record p).last.map fun l => { l with verdict := f l } }
  | report (r : ReportRecord) : s.mode = .run → r.last.isSome = true → RecordMove s p r

/-- What one move makes of a slot (R27 to R90). -/
inductive BodyMove (s : State) : SlotBody → SlotBody → Prop where
  | same (b : SlotBody) : BodyMove s b b
  | freed (b : SlotBody) : BodyMove s b .free
  | reblocked (c : ClaimData) (left : Nat) (bl bl' : Blockers) : BodyMove s (.waiting c left bl) (.waiting c left bl')
  | granted (c : ClaimData) (left : Nat) (bl : Blockers) : s.activeGroupsTouched c.box = [] →
      BodyMove s (.waiting c left bl) (.granted c s.entryMs)
  | entered {b : SlotBody} {c : ClaimData} : b.live = some c → BodyMove s b (.occupied c)
  | leaving {b : SlotBody} {c : ClaimData} : b.live = some c → BodyMove s b (.releasing c)
  | claimed (c : ClaimData) : s.mode = .run → s.activeGroupsTouched c.box = [] →
      BodyMove s .free (.granted c s.entryMs)
  | waits (c : ClaimData) (bl : Blockers) : s.mode = .run → BodyMove s .free (.waiting c s.waitMs bl)
  | tick (b : SlotBody) : BodyMove s b b.tick

/-- What one move makes of a line: none changes its function, its settings or its filtered level (R167 to R170). -/
inductive LineMove (s : State) : Line → Line → Prop where
  | same (l : Line) : LineMove s l l
  | held (l : Line) (w : Level) : s.inReset = true → LineMove s l { l with wire := w }
  | output (l : Line) (w : Level) (holds : Bool) : l.func.isOutput = true →
      LineMove s l { l with wire := w, wireHolds := holds }
  | settles (l : Line) (w : Level) : l.func.isOutput = false → levelActive l.polarity w = l.filtered →
      LineMove s l { l with wire := w, filterTimer := none }
  | starts (l : Line) (w : Level) : l.func.isOutput = false → levelActive l.polarity w ≠ l.filtered →
      LineMove s l { l with wire := w, filterTimer := some l.debounce }
  | out (l : Line) (active : Bool) : LineMove s l { l with out := active }
  | tick (l : Line) : LineMove s l { l with filterTimer := l.filterTimer.map (· - 1) }

/-- An arm link with no notice and no NOTICE_LOST, as in CONFIG (R183). -/
def ArmLink.Quiet (l : ArmLink) : Prop := l.queue = [] ∧ l.noticeLost = false

/-! ### Moves -/

/-- A change of the state that touches no source of group activity or of the e-stop, no setting, no map and no mode. A
field left out of a proof is one that the change does not touch. -/
structure Move (s t : State) : Prop where
  mode : t.mode = s.mode := by rfl
  timing : t.timing = s.timing := by rfl
  keepOut : t.keepOut = s.keepOut := by rfl
  guard : ∀ p, GuardMove s p (t.guard p) := by exact fun _ => .same
  record : ∀ p, RecordMove s p (t.record p) := by exact fun _ => .same
  body : ∀ k, BodyMove s (s.body k) (t.body k) := by exact fun _ => .same _
  line : ∀ n, LineMove s (s.line n) (t.line n) := by exact fun _ => .same _
  /-- In CONFIG an empty table has nothing to wait or to tell. -/
  quiet : s.mode = .config → (∀ k, s.body k = .free) → (s.waitList = [] → t.waitList = []) ∧
    ∀ p, (s.link p).Quiet → (t.link p).Quiet := by exact fun _ _ => ⟨id, fun _ => id⟩
  /-- Only an arm in RUN or STOPPED gains a claim, within its quota (R35, R49). -/
  count : ∀ p, t.countOf p ≤ s.countOf p ∨
    t.guard p = s.guard p ∧ (s.armState p = .run ∨ s.armState p = .stopped) ∧ t.countOf p ≤ s.timing.quota.get p :=
    by exact fun _ => .inl (Nat.le_refl _)
  /-- A move ends no reset (R173). -/
  held : t.inReset = false → s.inReset = false := by exact id

/-- Moves, one after another. -/
def Moves (s t : State) : Prop := Relation.ReflTransGen Move s t

theorem Moves.refl (s : State) : Moves s s := Relation.ReflTransGen.refl

theorem Move.moves {s t : State} (h : Move s t) : Moves s t := .single h

theorem Moves.trans {s t u : State} (h : Moves s t) (h' : Moves t u) : Moves s u := Relation.ReflTransGen.trans h h'

theorem Moves.foldl {α : Type} {f : State → α → State} (hf : ∀ t a, Moves t (f t a)) (l : List α) (s : State) :
    Moves s (l.foldl f s) := List.foldlRecOn l f (.refl s) fun t h a _ => h.trans (hf t a)

/-! ### Changes of a source -/

/-- What a change of a source makes of a line: its function and settings are written, or its filtered level takes the
level at its pin (R165, R167). An output line has no filter timer that could run out (`State.FiltersFit`). -/
inductive SourceLine (s : State) : Line → Line → Prop where
  | same (l : Line) : SourceLine s l l
  | configured (l : Line) (f : LineFunction) (pol : Polarity) (debounce : Nat) :
      SourceLine s l
        { l with func := f, polarity := pol, debounce := debounce, filterTimer := none
                 filtered := !f.isOutput && levelActive pol l.wire
                 wireHolds := l.wireHolds && f.isOutput }
  | filtered (l : Line) (w : Level) : l.func.isOutput = false →
      SourceLine s l { l with wire := w, filtered := levelActive l.polarity w, filterTimer := none }
  | stray (l : Line) (active : Bool) : s.inReset = false → l.func.isOutput = true → l.filterTimer = some 0 →
      SourceLine s l { l with filtered := active, filterTimer := none }

/-- A change of the supervisor flags or of the lines, the sources of group activity and of the e-stop (R154, R168). -/
structure SourceChange (s u : State) : Prop where
  frame : { u with lines := s.lines, keepOut := { u.keepOut with flags := s.keepOut.flags } } = s
  line : ∀ n, SourceLine s (s.line n) (u.line n)

/-! ### All that can happen -/

/-- One thing that a step can do. -/
inductive Happens : State → State → Prop where
  | move {s t : State} : Move s t → Happens s t
  | sources {s : State} {change : State → State} : SourceChange s (change s) → Happens s (s.afterSources change)
  | timing {s : State} (x : Timing) : s.mode = .config → Happens s { s with timing := x }
  | map {s : State} (g : Geometry) (cells : List (Nat × Group)) : s.mode = .config →
      Happens s { s with keepOut := { s.keepOut with geometry := g, cells := cells } }
  | run {s : State} : s.mode = .config → Happens s { s with mode := .run }
  | config (s : State) : Happens s s.enterConfig
  | reset (s : State) : Happens s s.endReset

/-- What a step does: a chain of such things. -/
def Takes (s t : State) : Prop := Relation.ReflTransGen Happens s t

theorem Takes.refl (s : State) : Takes s s := Relation.ReflTransGen.refl

theorem Happens.takes {s t : State} (h : Happens s t) : Takes s t := .single h

theorem Takes.trans {s t u : State} (h : Takes s t) (h' : Takes t u) : Takes s u := Relation.ReflTransGen.trans h h'

theorem Moves.takes {s t : State} (h : Moves s t) : Takes s t := 
  Relation.ReflTransGen.mono (fun _ _ => Happens.move) _ _ h

/-- A property that each thing that happens keeps is kept by a step. -/
theorem Takes.keeps {P : State → Prop} (hP : ∀ {s t}, Happens s t → P s → P t) {s t : State} (h : Takes s t)
    (hs : P s) : P t := by
  induction h with
  | refl => exact hs
  | tail _ h ih => exact hP h ih

theorem Moves.keeps {P : State → Prop} (hP : ∀ {s t}, Move s t → P s → P t) {s t : State} (h : Moves s t)
    (hs : P s) : P t := by
  induction h with
  | refl => exact hs
  | tail _ h ih => exact hP h ih

/-! ### Counts -/

/-- Claims that stay or end add to no count. -/
theorem countOf_le_of_claims {s t : State}
    (h : ∀ k, (t.body k).claim = (s.body k).claim ∨ (t.body k).claim = none) (p : Arm) :
    t.countOf p ≤ s.countOf p := by
  refine (List.monotone_filter_right allSlots fun k hk => ?_).length_le
  unfold State.holdsClaim at hk ⊢
  rcases h k with he | he
  · rwa [he] at hk
  · rw [he] at hk; cases hk

/-- A claim in one more slot adds one to its owner's count at most. -/
theorem countOf_le_succ {s t : State} {j : Fin 24} (h : ∀ k, k ≠ j → (t.body k).claim = (s.body k).claim) (p : Arm) :
    t.countOf p ≤ s.countOf p + 1 := by
  have hsub : t.claimsOf p ⊆ j :: s.claimsOf p := by
    intro k hk
    by_cases hkj : k = j
    · exact List.mem_cons.2 (.inl hkj)
    · unfold State.claimsOf State.holdsClaim at hk ⊢
      rw [List.mem_filter, h k hkj] at hk
      exact List.mem_cons.2 (.inr (List.mem_filter.2 hk))
  exact ((nodup_allSlots.filter _).subperm hsub).length_le

end Sys2Proof.Machine
end

section
/-! PROOFS. The shared operations of the Claim Table, the guard controllers, the lines and the time base as chains of
moves and changes of a source. -/

namespace Sys2Proof.Machine

/-! ### Updates of one record -/

theorem move_setGuard {s : State} {p : Arm} {g : Guard} (h : GuardMove s p g) : Move s (s.setGuard p g) where
  guard q := by
    rw [State.guard_setGuard]
    split
    · next hq => subst hq; exact h
    · exact .same

theorem move_setRecord {s : State} {p : Arm} {r : ReportRecord} (h : RecordMove s p r) : Move s (s.setRecord p r) where
  record q := by
    rw [State.record_setRecord]
    split
    · next hq => subst hq; exact h
    · exact .same

theorem move_clearFresh (s : State) (p : Arm) : Move s (s.clearFresh p) := move_setRecord .stale

theorem move_updSticky (s : State) (f : StickyFlags → StickyFlags) : Move s (s.updSticky f) := {}

theorem move_setLink {s : State} {p : Arm} {l : ArmLink} (h : (s.link p).Quiet → l.Quiet) :
    Move s (s.setLink p l) where
  quiet _ _ := by
    refine ⟨id, fun q hq => ?_⟩
    rw [State.link_setLink]
    split
    · next he => subst he; exact h hq
    · exact hq

theorem move_setLine {s : State} {n : Fin 8} {l : Line} (h : LineMove s (s.line n) l) : Move s (s.setLine n l) where
  line m := by
    rw [State.line_setLine]
    split
    · next hm => subst hm; exact h
    · exact .same _

/-- A slot that enters another state with its claim, or with none. -/
theorem move_setBody {s : State} {k : Fin 24} {b : SlotBody} (h : BodyMove s (s.body k) b)
    (hc : b.claim = (s.body k).claim ∨ b.claim = none) : Move s (s.setBody k b) where
  body j := by
    rw [State.body_setBody]
    split
    · next hj => subst hj; exact h
    · exact .same _
  count p := .inl <| countOf_le_of_claims (fun j => by
    rw [State.body_setBody]
    split
    · next hj => subst hj; exact hc
    · exact .inl rfl) p

theorem move_mapBodies {s : State} {f : Fin 24 → SlotBody → SlotBody} (h : ∀ k, BodyMove s (s.body k) (f k (s.body k)))
    (hc : ∀ k b, (f k b).claim = b.claim) : Move s (s.mapBodies f) where
  mode := s.mapBodies_mode f
  timing := s.mapBodies_timing f
  keepOut := s.mapBodies_keepOut f
  guard p := by rw [State.mapBodies_guard]; exact .same
  record p := by rw [State.mapBodies_record]; exact .same
  body k := by rw [State.body_mapBodies]; exact h k
  line n := by rw [State.mapBodies_line]; exact .same _
  quiet _ _ := by
    refine ⟨fun hw => by rw [State.mapBodies_waitList]; exact hw, fun p hp => by rw [State.mapBodies_link]; exact hp⟩
  count p := .inl <| countOf_le_of_claims (fun k => by rw [State.body_mapBodies]; exact .inl (hc k _)) p
  held hr := by rwa [State.inReset_congr (s.mapBodies_resetnLow f) (s.mapBodies_supplyLow f)] at hr

/-! ### The Claim Table -/

theorem RecordKept.move {s : State} {p : Arm} {r : ReportRecord} (h : RecordKept (s.record p) r) :
    RecordMove s p r := by
  rcases h with rfl | ⟨l, hl, -, rfl⟩
  · exact .same
  · have hmap : ({ s.record p with last := (s.record p).last.map fun l =>
        { l with verdict := { l.verdict with place := .escaped } } } : ReportRecord) =
        { s.record p with last := some { l with verdict := { l.verdict with place := .escaped } } } := by
      rw [hl]; rfl
    rw [← hmap]
    exact .judged fun l => { l.verdict with place := .escaped }

/-- An event of the table on a claim that it holds, by what it does to each slot. -/
theorem TableFrame.move {s t : State} (h : TableFrame s t) {k : Fin 24} (hk : s.body k ≠ .free)
    (hbody : ∀ j, BodyMove s (s.body j) (t.body j))
    (hclaim : ∀ j, (t.body j).claim = (s.body j).claim ∨ (t.body j).claim = none) : Move s t where
  mode := h.mode
  timing := h.timing
  keepOut := h.keepOut
  guard p := by
    have hg : t.guard p = s.guard p := congrArg (·.get p) h.guards
    rw [hg]; exact .same
  record p := (h.records p).move
  body := hbody
  line n := by
    have hl : t.line n = s.line n := congrArg (·[n]) h.lines
    rw [hl]; exact .same _
  quiet _ hfree := absurd (hfree k) hk
  count p := .inl (countOf_le_of_claims hclaim p)
  held hr := h.sameResets.inReset ▸ hr

theorem moves_retire (s : State) (k : Fin 24) (n : Option NoticeKind) (r : Bool) : Moves s (s.retire k n r) := by
  cases hc : (s.body k).claim with
  | none => rw [retire_of_claim_none hc]; exact .refl s
  | some c =>
    have hbody := fun j => body_retire s k j n r (by rw [hc]; rfl)
    refine ((retire_frame s k n r).move (k := k) (fun hf => by rw [hf] at hc; cases hc) (fun j => ?_) fun j => ?_).moves
    · rw [hbody]; split
      · exact .freed _
      · exact .same _
    · rw [hbody]; split
      · exact .inr rfl
      · exact .inl rfl

theorem move_grantWaiting {s : State} {k : Fin 24} {c : ClaimData} {left : Nat} {bl : Blockers}
    (h : s.body k = .waiting c left bl) (hg : s.activeGroupsTouched c.box = []) : Move s (s.grantWaiting k c) := by
  refine (grantWaiting_frame s k c).1.move (k := k) (fun hf => by rw [hf] at h; cases h) (fun j => ?_) fun j => ?_
  · rw [body_grantWaiting]; split
    · next hj => subst hj; rw [h]; exact .granted c left bl hg
    · exact .same _
  · rw [body_grantWaiting]; split
    · next hj => subst hj; rw [h]; exact .inl rfl
    · exact .inl rfl

theorem moves_rescreenFrom (rest : List (Fin 24)) : ∀ (ahead : List (Fin 24)) (s : State),
    Moves s (rescreenFrom ahead rest s) := by
  induction rest with
  | nil => exact fun _ s => .refl s
  | cons k rest ih =>
    intro ahead s
    obtain ⟨c, left, bl, hb, hempty, he⟩ | ⟨c, left, bl, hb, -, he⟩ | ⟨-, he⟩ := rescreenFrom_cons ahead k rest s
    · obtain ⟨-, hgroups⟩ := (screen_isEmpty_iff _ _ _ _).1 hempty
      rw [he]
      exact (move_grantWaiting hb hgroups).moves.trans (ih _ _)
    · have hmove := move_setBody (b := .waiting c left (s.screen c.owner c.box fun j => ahead.contains j))
        (by rw [hb]; exact .reblocked c left bl _) (.inl (by rw [hb]; rfl))
      rw [he]
      exact hmove.moves.trans (ih _ _)
    · rw [he]
      exact ih _ _

theorem moves_rescreen (s : State) : Moves s s.rescreen := moves_rescreenFrom _ _ _

theorem moves_retireAll (s : State) (ks : List (Fin 24)) (n : Option NoticeKind) (r : Bool) :
    Moves s (s.retireAll ks n r) := .foldl (fun t k => moves_retire t k n r) ks s

theorem moves_retireAndRescreen (s : State) (ks : List (Fin 24)) (n : Option NoticeKind) (r : Bool) :
    Moves s (s.retireAndRescreen ks n r) := by
  unfold State.retireAndRescreen
  split
  · exact .refl s
  · exact (moves_retireAll s ks n r).trans (moves_rescreen _)

theorem move_joinBlockers (s : State) (p : Arm) (k : Fin 24) (box : Box) (behind : Fin 24 → Bool) :
    Move s (s.joinBlockers p k box behind) := by
  refine move_mapBodies (fun j => ?_) fun j b => ?_
  · cases s.body j with
    | waiting c left bl =>
      simp only
      split
      · exact .reblocked _ _ _ _
      · exact .same _
    | _ => exact .same _
  · cases b with
    | waiting c left bl => simp only; split <;> rfl
    | _ => rfl

theorem move_joinGroup (s : State) (g : Group) : Move s (s.joinGroup g) := by
  refine move_mapBodies (fun j => ?_) fun j b => ?_
  · cases s.body j with
    | waiting c left bl =>
      simp only
      split
      · exact .reblocked _ _ _ _
      · exact .same _
    | _ => exact .same _
  · cases b with
    | waiting c left bl => simp only; split <;> rfl
    | _ => rfl

theorem move_markEntry (s : State) (p : Arm) (part : Option Box) : Move s (s.markEntry p part) := by
  refine move_mapBodies (fun j => ?_) fun j b => ?_
  · cases s.body j with
    | granted c left =>
      simp only
      split
      · exact .entered rfl
      · exact .same _
    | _ => exact .same _
  · cases b with
    | granted c left => simp only; split <;> rfl
    | _ => rfl

theorem moves_markExit (s : State) (p : Arm) (part : Option Box) : Moves s (s.markExit p part) :=
  moves_retireAndRescreen s (s.exits p part) (some .retired) true

/-- What follows the retirement of the revoked claims at an activation (R158). -/
theorem moves_tableActivate (s : State) (g : Group) :
    Moves (s.retireAll (s.revoked g) (some .revoked) false) (s.tableActivate g) := by
  have hjoin := (move_joinGroup (s.retireAll (s.revoked g) (some .revoked) false) g).moves
  unfold State.tableActivate
  dsimp only
  split
  · exact hjoin
  · exact (hjoin.trans (move_updSticky _ _).moves).trans (moves_rescreen _)

/-! ### The guard controllers -/

theorem moves_enterStopped {s : State} {p : Arm} {causes : List StopCause} (hc : causes ≠ [])
    (h : s.armState p = .run) : Moves s (s.enterStopped p causes) := by
  have hguard : Move s (s.setGuard p { s.guard p with
      state := .stopped, causes := (s.guard p).causes.addAll causes, resumeRequested := false
      stopAcknowledged := false }) := move_setGuard (.stop causes hc (.inl h))
  unfold State.enterStopped
  exact (hguard.moves.trans (move_clearFresh _ p).moves).trans (move_updSticky _ _).moves

theorem moves_stopArm (s : State) (p : Arm) (cause : StopCause) : Moves s (s.stopArm p cause) := by
  unfold State.stopArm
  cases h : s.armState p with
  | run => exact moves_enterStopped (List.cons_ne_nil _ _) h
  | stopped =>
    have hguard : GuardMove s p { s.guard p with
        causes := (s.guard p).causes.add cause, resumeRequested := false, stopAcknowledged := false } := by
      have hstop := GuardMove.stop [cause] (List.cons_ne_nil _ _) (.inr h)
      rwa [← h] at hstop
    exact (move_setGuard hguard).moves
  | detached | lost => exact .refl s

theorem moves_resumeCheck (s : State) (p : Arm) : Moves s (s.resumeCheck p) := by
  unfold State.resumeCheck
  dsimp only
  split
  · next h =>
    obtain ⟨hstopped, -, -, hfits⟩ := h
    exact (move_setGuard (.resume hstopped hfits)).moves
  · exact .refl s

theorem move_startReportTimer {s : State} {p : Arm} (h : s.armState p = .run ∨ s.armState p = .stopped) :
    Move s (s.startReportTimer p) := move_setGuard (.restart h)

theorem armState_startReportTimer (s : State) (p : Arm) : (s.startReportTimer p).armState p = s.armState p := by
  unfold State.startReportTimer
  rw [State.armState_setGuard, if_pos rfl]
  rfl

theorem moves_returnFromLost (s : State) (p : Arm) : Moves s (s.returnFromLost p) := by
  unfold State.returnFromLost
  dsimp only
  split
  · next h => exact ((move_setGuard (.back h)).moves.trans (move_clearFresh _ p).moves).trans (move_updSticky _ _).moves
  · exact .refl s

theorem moves_takeVerdict (s : State) (p : Arm) (v : Verdict) : Moves s (s.takeVerdict p v) := by
  unfold State.takeVerdict
  cases h : s.armState p with
  | run =>
    have hstart := (move_startReportTimer (.inl h)).moves
    dsimp only
    split
    · exact hstart
    · next hcauses =>
      exact hstart.trans (moves_enterStopped (by simpa using hcauses) ((armState_startReportTimer s p).trans h))
  | stopped => exact (move_startReportTimer (.inr h)).moves.trans (moves_resumeCheck _ p)
  | detached | lost => exact .refl s

theorem moves_enterLost {s : State} {p : Arm} (h : s.armState p = .run ∨ s.armState p = .stopped) :
    Moves s (s.enterLost p) :=
  (((move_setGuard (.lose h)).moves.trans (move_clearFresh _ p).moves).trans (move_updSticky _ _).moves).trans
    (moves_retireAndRescreen _ _ _ _)

/-! ### Changes of a source -/

theorem moves_keepIntrusion (s : State) (p : Arm) : Moves s (s.keepIntrusion p) := by
  unfold State.keepIntrusion
  dsimp only
  split
  · exact .refl s
  · next l hl =>
    have hjudged := RecordMove.judged (s := s) (p := p) fun l =>
      { l.verdict with intrusion := s.partIntrudes l.binPart }
    rw [hl] at hjudged
    exact (move_setRecord hjudged).moves

theorem moves_guardActivate (s : State) (g : Group) (p : Arm) : Moves s (s.guardActivate g p) := by
  unfold State.guardActivate
  split
  · exact moves_stopArm s p _
  · exact .refl s

/-- An activation, once the claims that it revokes are retired (R158, R159). -/
theorem moves_groupActivated {s : State} (g : Group) (h : s.mode = .run) :
    Moves (s.retireAll (s.revoked g) (some .revoked) false) (s.groupActivated g) := by
  unfold State.groupActivated
  rw [if_pos h]
  exact ((((moves_tableActivate s g).trans (moves_guardActivate _ g .a)).trans (moves_guardActivate _ g .b)).trans
    (moves_keepIntrusion _ .a)).trans (moves_keepIntrusion _ .b)

theorem moves_groupDeactivated (s : State) : Moves s s.groupDeactivated := by
  unfold State.groupDeactivated
  split
  · exact ((((moves_rescreen s).trans (moves_keepIntrusion _ .a)).trans (moves_keepIntrusion _ .b)).trans
      (moves_resumeCheck _ .a)).trans (moves_resumeCheck _ .b)
  · exact .refl s

theorem moves_groupEvent (s : State) (before : Bool) (g : Group) : Moves s (s.groupEvent before g) := by
  unfold State.groupEvent
  split
  · exact .refl s
  · split
    · exact moves_groupDeactivated s
    · by_cases hm : s.mode = .run
      · exact (moves_retireAll s _ _ _).trans (moves_groupActivated g hm)
      · unfold State.groupActivated
        rw [if_neg hm]
        exact .refl s

theorem moves_estopEvent (s : State) (before : Bool) : Moves s (s.estopEvent before) := by
  unfold State.estopEvent
  split
  · exact .refl s
  · split
    · exact (moves_resumeCheck s .a).trans (moves_resumeCheck _ .b)
    · exact (moves_stopArm s .a _).trans (moves_stopArm _ .b _)

/-- All that follows a change of a source, from the change on (R156, R168). -/
theorem moves_afterSources (s : State) (change : State → State) : Moves (change s) (s.afterSources change) :=
  (((moves_groupEvent _ _ _).trans (moves_groupEvent _ _ _)).trans (moves_groupEvent _ _ _)).trans
    (moves_estopEvent _ _)

/-! ### The lines -/

theorem sourceChange_setLine {s : State} {n : Fin 8} {l : Line} (h : SourceLine s (s.line n) l) :
    SourceChange s (s.setLine n l) where
  frame := rfl
  line m := by
    rw [State.line_setLine]
    split
    · next hm => subst hm; exact h
    · exact .same _

theorem sourceChange_flags (s : State) (flags : PerGroup Bool) :
    SourceChange s { s with keepOut := { s.keepOut with flags := flags } } where
  frame := rfl
  line _ := .same _

/-- SET_LINE is a change of a source (R165). -/
theorem takes_configureLine (s : State) (n : Fin 8) (f : LineFunction) (pol : Polarity) (debounce : Nat) :
    Takes s (s.configureLine n f pol debounce) :=
  (Happens.sources (sourceChange_setLine (.configured _ f pol debounce))).takes

/-- The raw level, where the line's own driver is off, is the wiring's (R163). -/
theorem rawLevel_of_input {s : State} {n : Fin 8} (h : (s.line n).func.isOutput = false) :
    s.rawLevel n = (s.line n).wire := by
  unfold State.rawLevel State.driven
  rw [h]
  simp

theorem takes_expireFilter {s : State} (hr : s.inReset = false) (n : Fin 8) : Takes s (s.expireFilter n) := by
  unfold State.expireFilter
  split
  · next ht =>
    have hline : SourceLine s (s.line n) { s.line n with
        filtered := levelActive (s.line n).polarity (s.rawLevel n), filterTimer := none } := by
      cases ho : (s.line n).func.isOutput with
      | true => exact .stray _ _ hr ho ht
      | false =>
        rw [rawLevel_of_input ho]
        exact .filtered _ (s.line n).wire ho
    exact (Happens.sources (change := fun t => t.setLine n { t.line n with
      filtered := levelActive (s.line n).polarity (s.rawLevel n), filterTimer := none })
      (sourceChange_setLine hline)).takes
  · exact .refl s

theorem setLine_setLine (s : State) (n : Fin 8) (l l' : Line) : (s.setLine n l).setLine n l' = s.setLine n l' := by
  unfold State.setLine
  simp [Vector.set_set]

/-- The level at a line's pin is no source before its filter has taken it (R167). -/
theorem afterSources_wire (s : State) (n : Fin 8) (w : Level) (change change' : State → State)
    (h : change (s.setLine n { s.line n with wire := w }) = change' s) :
    (s.setLine n { s.line n with wire := w }).afterSources change = s.afterSources change' := by
  have hline : ∀ m, ((s.setLine n { s.line n with wire := w }).line m).func = (s.line m).func ∧
      ((s.setLine n { s.line n with wire := w }).line m).filtered = (s.line m).filtered := by
    intro m
    rw [State.line_setLine]
    split
    · next hm => subst hm; exact ⟨rfl, rfl⟩
    · exact ⟨rfl, rfl⟩
  have hgroup : ∀ g, (s.setLine n { s.line n with wire := w }).groupActive g = s.groupActive g := by
    intro g
    simp only [State.groupActive, State.groupLineActive, hline, State.setLine_keepOut]
  have hestop : (s.setLine n { s.line n with wire := w }).estopActive = s.estopActive := by
    simp only [State.estopActive, hline]
  unfold State.afterSources
  simp only [hgroup, hestop, h]

theorem takes_changeRaw (s : State) (n : Fin 8) (level : Level) : Takes s (s.changeRaw n level) := by
  unfold State.changeRaw
  dsimp only
  split
  · next hr => exact (move_setLine (.held _ level hr)).moves.takes
  · split
    · next ho => exact (move_setLine (.output _ level _ ho)).moves.takes
    · next ho =>
      have ho : (s.line n).func.isOutput = false := by simpa using ho
      split
      · exact .refl s
      · unfold State.filterRaw
        simp only [State.line_setLine_self, setLine_setLine]
        split
        · next hl => exact (move_setLine (.settles _ level ho hl)).moves.takes
        · next hl =>
          split
          · have hchange := Happens.sources (s := s) (change := fun t => t.setLine n { t.line n with
              wire := level, filtered := levelActive (t.line n).polarity level, filterTimer := none })
              (sourceChange_setLine (.filtered _ level ho))
            unfold State.setFiltered
            rw [afterSources_wire s n level _ _ (by rw [State.line_setLine_self, setLine_setLine])]
            exact hchange.takes
          · exact (move_setLine (.starts _ level ho hl)).moves.takes

/-! ### The time base -/

theorem moves_lapseSlot (s : State) (k : Fin 24) : Moves s (s.lapseSlot k) := by
  unfold State.lapseSlot
  split
  · exact (move_updSticky s _).moves.trans (moves_retireAndRescreen _ _ _ _)
  · exact .refl s

theorem moves_expireWait (s : State) (k : Fin 24) : Moves s (s.expireWait k) := by
  unfold State.expireWait
  split
  · exact (move_updSticky s _).moves.trans (moves_retireAndRescreen _ _ _ _)
  · exact .refl s

theorem moves_expireReportTimer (s : State) (p : Arm) : Moves s (s.expireReportTimer p) := by
  unfold State.expireReportTimer
  split
  · next h => exact moves_enterLost h.2
  · exact .refl s

/-- The timers beside the slots' have a millisecond less left, and the accumulators step. -/
theorem move_timers {s : State} {gs : PerArm Guard} {ls : Vector Line 8} {e : EventUnit}
    (hguard : ∀ p, gs.get p = { s.guard p with reportTimer := (s.guard p).reportTimer.map (· - 1) })
    (hline : ∀ n : Fin 8, ls[n] = { s.line n with filterTimer := (s.line n).filterTimer.map (· - 1) }) :
    Move s { s with guards := gs, lines := ls, events := e } where
  guard p := by show GuardMove s p (gs.get p); rw [hguard]; exact .tick
  line n := by show LineMove s (s.line n) ls[n]; rw [hline]; exact .tick _

theorem moves_tick (s : State) : Moves s s.tick := by
  have hbodies : Move s (s.mapBodies fun _ b => b.tick) :=
    move_mapBodies (fun _ => .tick _) fun _ => SlotBody.claim_tick
  unfold State.tick
  refine hbodies.moves.trans (move_timers (fun p => ?_) fun n => ?_).moves
  · rw [State.mapBodies_guard, ← tickTimer_eq]
    cases p <;> rfl
  · rw [Fin.getElem_fin, Vector.getElem_ofFn, State.mapBodies_line, ← tickTimer_eq]

theorem takes_millisecond {s : State} (hr : s.inReset = false) : Takes s s.millisecond := by
  have hstep {t u : State} (h : Takes s t ∧ t.inReset = false) (htake : Takes t u) (hsame : SameResets t u) :
      Takes s u ∧ u.inReset = false := ⟨h.1.trans htake, hsame.inReset.trans h.2⟩
  have hall : Takes s s.millisecond ∧ s.millisecond.inReset = false :=
    millisecond_induction (P := fun t => Takes s t ∧ t.inReset = false) s
      ⟨(moves_tick s).takes, (sameResets_tick s).inReset.trans hr⟩
      (fun t k h => hstep h (moves_lapseSlot t k).takes (sameResets_lapseSlot t k))
      (fun t k h => hstep h (moves_expireWait t k).takes (sameResets_expireWait t k))
      (fun t p h => hstep h (moves_expireReportTimer t p).takes (sameResets_expireReportTimer t p))
      fun t n h => hstep h (takes_expireFilter h.2 n) (sameResets_expireFilter t n)
  exact hall.1

end Sys2Proof.Machine
end

section
/-! PROOFS. Every command, frame by frame through its owner and event by event, as a chain of the things that can
happen, and with it every step (`step_takes`). -/

namespace Sys2Proof.Machine

/-! ### Replies and events -/

/-- A reply shows the state, and an arm reply takes a notice off the queue (R177, R181). -/
theorem move_replyArm (s : State) (p : Arm) (kind : Byte) (r : Result) (d : ArmData) :
    Move s (s.replyArm p kind r d) :=
  move_setLink fun ⟨hqueue, hlost⟩ => ⟨by rw [hqueue]; rfl, hlost⟩

theorem takeArmFrame_takes {s t : State} {p : Arm} {kind : Byte} {owner : State → Answer}
    (ho : Takes s (owner s).state) (h : takeArmFrame p kind owner s = .next t) : Takes s t := by
  cases hr : s.inReset with
  | true => rw [takeArmFrame_held hr] at h; cases h; exact .refl s
  | false =>
    rw [takeArmFrame_next hr] at h
    cases h
    exact ho.trans (move_replyArm _ _ _ _ _).moves.takes

theorem takeCellFrame_takes {s t : State} {kind : Byte} {owner : State → CellAnswer}
    (ho : Takes s (owner s).state) (h : takeCellFrame kind owner s = .next t) : Takes s t := by
  cases hr : s.inReset with
  | true => rw [takeCellFrame_held hr] at h; cases h; exact .refl s
  | false =>
    have hreply : Move (owner s).state
      ((owner s).state.replyCell kind (owner s).result (owner s).clamped (owner s).data) := {}
    rw [takeCellFrame_next hr] at h
    cases h
    exact ho.trans hreply.moves.takes

theorem takeEvent_takes {s t : State} {effect : State → State} (he : s.inReset = false → Takes s (effect s))
    (h : takeEvent effect s = .next t) : Takes s t := by
  cases hr : s.inReset with
  | true => rw [takeEvent_held hr] at h; cases h; exact .refl s
  | false => rw [takeEvent_next hr] at h; cases h; exact he hr

/-! ### The owners of arm requests -/

theorem gateRequest_takes {s : State} {p : Arm} {owner : State → Answer}
    (h : s.mode = .run → Takes s (owner s).state) : Takes s (gateRequest p owner s).state := by
  cases hm : s.mode with
  | config => rw [gateRequest_config hm]; exact .refl s
  | run =>
    by_cases hl : s.armState p = .lost
    · rw [gateRequest_lost hm p hl]; exact .refl s
    · rw [gateRequest_pass hm p hl]; exact h hm

theorem attachOwner_takes {s : State} (hm : s.mode = .run) (p : Arm) : Takes s (attachOwner p s).state := by
  unfold attachOwner
  split
  · exact .refl s
  · next hd =>
    split
    · exact .refl s
    · next hf => exact (move_setGuard (.attach hm (by simpa using hd) (by simpa using hf))).moves.takes

theorem detachOwner_takes (p : Arm) (s : State) : Takes s (detachOwner p s).state := by
  unfold detachOwner
  split
  · exact .refl s
  · next hr =>
    split
    · exact .refl s
    · next hc =>
      exact ((move_setGuard (.detach (by simpa using hr) (by simpa using hc))).moves.trans
        (move_clearFresh _ p).moves).takes

theorem mode_returnFromLost (s : State) (p : Arm) : (s.returnFromLost p).mode = s.mode := by
  unfold State.returnFromLost
  dsimp only
  split <;> rfl

theorem reportOwner_takes {s : State} (hm : s.mode = .run) (p : Arm) (request : ProfileName) (xa ya za : Int)
    (speed : Nat) : Takes s (reportOwner p request xa ya za speed s).state := by
  have hrecord (e : Envelope) : Move (s.returnFromLost p) ((s.returnFromLost p).recordReport p request e) :=
    move_setRecord (.report _ ((mode_returnFromLost s p).trans hm) rfl)
  unfold reportOwner
  dsimp only
  exact (((((moves_returnFromLost s p).trans (hrecord _).moves).trans (moves_takeVerdict _ p _)).trans
    (move_markEntry _ p _).moves).trans (moves_markExit _ p _)).takes

/-- A claim that a FREE slot takes, within its arm's quota (R49, R60, R67). -/
theorem move_takeSlot {s : State} {k : Fin 24} {c : ClaimData} {b : SlotBody} {w : List (Fin 24)} (hm : s.mode = .run)
    (ha : s.armState c.owner = .run ∨ s.armState c.owner = .stopped)
    (hq : s.countOf c.owner < s.timing.quota.get c.owner) (hbody : BodyMove s (s.body k) b)
    (hc : b.claim = some c) : Move s { s.setBody k b with waitList := w } where
  body j := by
    show BodyMove s (s.body j) ((s.setBody k b).body j)
    rw [State.body_setBody]
    split
    · next hj => subst hj; exact hbody
    · exact .same _
  quiet hconfig := by rw [hm] at hconfig; cases hconfig
  count p := by
    show (s.setBody k b).countOf p ≤ s.countOf p ∨ _
    by_cases hp : p = c.owner
    · subst hp
      refine .inr ⟨rfl, ha, (countOf_le_succ (j := k) (fun j hj => ?_) _).trans hq⟩
      show ((s.setBody k b).body j).claim = _
      rw [State.body_setBody, if_neg hj]
    · refine .inl (List.monotone_filter_right allSlots fun j hj => ?_).length_le
      unfold State.holdsClaim at hj ⊢
      rw [State.body_setBody] at hj
      split at hj
      · rw [hc, ownedBy_some] at hj
        exact absurd (eq_of_beq hj).symm hp
      · exact hj

theorem decideClaim_takes {s : State} {k : Fin 24} {c : ClaimData} (hm : s.mode = .run)
    (ha : s.armState c.owner = .run ∨ s.armState c.owner = .stopped)
    (hq : s.countOf c.owner < s.timing.quota.get c.owner) (hfree : s.body k = .free) :
    Takes s (decideClaim s k c).state := by
  unfold decideClaim
  dsimp only
  split
  · next hempty =>
    obtain ⟨-, hgroups⟩ := (screen_isEmpty_iff _ _ _ _).1 hempty
    have htake : Move s (s.setBody k (.granted c s.entryMs)) :=
      move_takeSlot (w := s.waitList) hm ha hq (by rw [hfree]; exact .claimed c hm hgroups) rfl
    exact (htake.moves.trans (move_joinBlockers _ _ _ _ _).moves).takes
  · split
    · exact .refl s
    · split
      · exact .refl s
      · exact ((move_takeSlot hm ha hq (by rw [hfree]; exact .waits c _ hm) rfl).moves.trans
          (move_joinBlockers _ _ _ _ _).moves).takes

theorem claim_eq_none_iff (b : SlotBody) : b.claim = none ↔ b = .free := by
  cases b <;> simp [SlotBody.claim]

theorem isFree_iff (s : State) (k : Fin 24) : s.isFree k = true ↔ s.body k = .free := by
  unfold State.isFree
  rw [Option.isNone_iff_eq_none, claim_eq_none_iff]

/-- The slot of a new claim is the lowest FREE one (R34). -/
theorem firstFree_eq_some_iff (s : State) (k : Fin 24) :
    s.firstFree = some k ↔ s.body k = .free ∧ ∀ j, j < k → s.body j ≠ .free := by
  unfold State.firstFree allSlots
  rw [← Fin.find?_eq_find?_finRange, Fin.find?_eq_some_iff, isFree_iff]
  simp only [Bool.eq_false_iff, Ne, isFree_iff]

theorem claimOwner_takes {s : State} (hm : s.mode = .run) (p : Arm) (cls : Byte) (box : RawBox) :
    Takes s (claimOwner p cls box s).state := by
  unfold claimOwner
  split
  · exact .refl s
  · next ha =>
    split
    · exact .refl s
    · split
      · exact .refl s
      · split
        · exact .refl s
        · next hq =>
          split
          · exact .refl s
          · next k hk =>
            obtain ⟨hfree, -⟩ := (firstFree_eq_some_iff s k).1 hk
            exact decideClaim_takes hm (by tauto) (Nat.lt_of_not_le hq) hfree

theorem withHandle_takes {p : Arm} {slot gen : Byte} {s : State} {act : Fin 24 → ClaimData → Answer}
    (h : ∀ k c, (s.body k).claim = some c → Takes s (act k c).state) :
    Takes s (withHandle p slot gen s act).state := by
  unfold withHandle
  split
  · exact .refl s
  · next k _ =>
    split
    · exact .refl s
    · next c hc =>
      split
      · exact h k c hc
      · exact .refl s

/-- A claim that is left or kept as RELEASING, by the last bin part (R83). -/
theorem releaseLive_takes {s : State} {k : Fin 24} {c : ClaimData} (h : (s.body k).live = some c) (p : Arm) :
    Takes s (if partIntersects (s.binPart p) c.box then
        { state := s.setBody k (.releasing c), result := .releasing, data := .empty }
      else
        { state := s.retireAndRescreen [k] none false, result := .retired, data := .empty } : Answer).state := by
  split
  · exact (move_setBody (.leaving h) (.inl (live_isSome_claim h).symm)).moves.takes
  · exact (moves_retireAndRescreen s [k] none false).takes

theorem releaseOwner_takes (p : Arm) (slot gen : Byte) (s : State) : Takes s (releaseOwner p slot gen s).state := by
  refine withHandle_takes fun k c hc => ?_
  unfold releaseSlot
  cases hb : s.body k with
  | free | waiting | releasing => exact .refl s
  | granted d left =>
    rw [hb] at hc
    cases hc
    exact releaseLive_takes (by rw [hb]; rfl) p
  | occupied d =>
    rw [hb] at hc
    cases hc
    exact releaseLive_takes (by rw [hb]; rfl) p

theorem cancelOwner_takes (p : Arm) (slot gen : Byte) (s : State) : Takes s (cancelOwner p slot gen s).state := by
  refine withHandle_takes fun k c _ => ?_
  split
  · exact (moves_retireAndRescreen s [k] none false).takes
  · exact .refl s

theorem listOwner_takes (p : Arm) (start : Byte) (s : State) : Takes s (listOwner p start s).state :=
  (move_setLink fun ⟨hqueue, _⟩ => ⟨hqueue, rfl⟩).moves.takes

theorem ackstopOwner_takes (p : Arm) (s : State) : Takes s (ackstopOwner p s).state := by
  unfold ackstopOwner
  split
  · exact .refl s
  · next h =>
    exact ((move_setGuard (.handshake _ true (by simpa using h))).moves.trans (moves_resumeCheck _ p)).takes

/-! ### The owners of commands -/

theorem configOnly_takes {s : State} {owner : State → CellAnswer} (h : s.mode = .config → Takes s (owner s).state) :
    Takes s (configOnly owner s).state := by
  cases hm : s.mode with
  | config => rw [configOnly_pass hm]; exact h hm
  | run => rw [configOnly_run hm]; exact .refl s

theorem setModeOwner_takes (target : Byte) (s : State) : Takes s (setModeOwner target s).state := by
  have hconfig : Takes s (enterConfigOwner s).state := by
    unfold enterConfigOwner
    split
    · exact .refl s
    · split
      · exact .refl s
      · exact (Happens.config s).takes
  have hrun : Takes s (enterRunOwner s).state := by
    unfold enterRunOwner
    split
    · exact .refl s
    · next hm =>
      split
      · exact .refl s
      · have hconfig : s.mode = .config := by
          cases h : s.mode with
          | config => rfl
          | run => exact absurd h hm
        exact (Happens.run hconfig).takes
  unfold setModeOwner
  split
  · exact hconfig
  · exact hrun
  · exact .refl s

theorem loadCalOwner_takes (arm : Byte) (sent : Calibration) (s : State) : Takes s (loadCalOwner arm sent s).state := by
  unfold loadCalOwner
  split
  · exact .refl s
  · next p _ =>
    have hcal : Move s { s with cal := s.cal.set p sent.clamped } := {}
    exact hcal.moves.takes

theorem loadProfileOwner_takes (arm profile : Byte) (sent : Profile) (s : State) :
    Takes s (loadProfileOwner arm profile sent s).state := by
  unfold loadProfileOwner
  split
  · next p n _ _ =>
    have hprofile : Move s { s with profiles := s.profiles.set p ((s.profiles.get p).set n sent.clamped) } := {}
    exact hprofile.moves.takes
  · exact .refl s

theorem setLineOwner_takes (line func polarity debounce : Byte) (s : State) :
    Takes s (setLineOwner line func polarity debounce s).state := by
  unfold setLineOwner
  split
  · exact takes_configureLine s _ _ _ _
  · exact .refl s

theorem setGeometryOwner_takes {s : State} (hm : s.mode = .config) (geometry : Byte) :
    Takes s (setGeometryOwner geometry s).state := by
  unfold setGeometryOwner
  split
  · exact .refl s
  · exact (Happens.map _ [] hm).takes

theorem mapFillOwner_takes {s : State} (hm : s.mode = .config) (code : Byte) (box : RawBox) :
    Takes s (mapFillOwner code box s).state := by
  unfold mapFillOwner
  split
  · exact .refl s
  · split
    · exact .refl s
    · exact (Happens.map s.keepOut.geometry _ hm).takes

theorem move_cell (s : State) (c : CellLink) : Move s { s with cell := c } := {}

theorem mapCursorOwner_takes (index : Half) (s : State) : Takes s (mapCursorOwner index s).state := by
  unfold mapCursorOwner
  split <;> exact (move_cell s _).moves.takes

theorem groupSetOwner_takes (group value : Byte) (s : State) : Takes s (groupSetOwner group value s).state := by
  unfold groupSetOwner
  split
  · next g v _ _ =>
    exact (Happens.sources
      (change := fun u => { u with keepOut := { u.keepOut with flags := u.keepOut.flags.set g v } })
      (sourceChange_flags s _)).takes
  · exact .refl s

theorem forceProfileOwner_takes (arm value : Byte) (s : State) : Takes s (forceProfileOwner arm value s).state := by
  unfold forceProfileOwner
  split
  · exact (move_setRecord (.forced _)).moves.takes
  · exact .refl s

theorem stopOwner_takes (arm : Byte) (s : State) : Takes s (stopOwner arm s).state := by
  unfold stopOwner
  split
  · exact .refl s
  · next p _ =>
    cases s.armState p with
    | run | stopped => exact (moves_stopArm s p _).takes
    | detached | lost => exact .refl s

theorem resumeOwner_takes (arm : Byte) (s : State) : Takes s (resumeOwner arm s).state := by
  unfold resumeOwner
  split
  · exact .refl s
  · split
    · next h => exact ((move_setGuard (.handshake true _ h)).moves.trans (moves_resumeCheck _ _)).takes
    · exact .refl s

theorem purgeArmOwner_takes (arm : Byte) (s : State) : Takes s (purgeArmOwner arm s).state := by
  unfold purgeArmOwner
  split
  · exact .refl s
  · next p _ =>
    split
    · exact .refl s
    · exact (moves_retireAndRescreen s (s.claimsOf p) (some .purged) false).takes

theorem purgeClaimOwner_takes (slot gen : Byte) (s : State) : Takes s (purgeClaimOwner slot gen s).state := by
  unfold purgeClaimOwner
  split
  · exact .refl s
  · next k _ =>
    split
    · exact .refl s
    · split
      · exact .refl s
      · exact (moves_retireAndRescreen s [k] (some .purged) false).takes

theorem setCursorOwner_takes (slot : Byte) (s : State) : Takes s (setCursorOwner slot s).state := by
  unfold setCursorOwner
  split <;> exact (move_cell s _).moves.takes

theorem move_writeOutputs (s : State) (f : Fin 8 → Bool → Bool) : Move s (s.writeOutputs f) where
  line n := by rw [State.line_writeOutputs]; exact .out _ _

theorem move_events (s : State) (e : EventUnit) : Move s { s with events := e } := {}

theorem moves_clearErrors (s : State) (p : Arm) (named : Bool) : Moves s (s.clearErrors p named) := by
  unfold State.clearErrors
  split
  · exact (move_setLink (l := { s.link p with errors := 0 }) id).moves
  · exact .refl s

theorem clearCountersOwner_takes (set : Byte) (s : State) : Takes s (clearCountersOwner set s).state := by
  have harms := (moves_clearErrors s .a (set.getLsbD 0)).trans (moves_clearErrors _ .b (set.getLsbD 1))
  have hcell : ∀ u : State, Moves u (if set.getLsbD 2 then { u with cell := { u.cell with errors := 0 } } else u) := by
    intro u
    split
    · exact (move_cell u _).moves
    · exact .refl u
  exact ((harms.trans (hcell _)).trans (move_events _ _).moves).takes

/-! ### Failed frames and resets -/

/-- A failed frame is counted, flagged and answered, and the notices are not touched (R178, R184). -/
theorem moves_failFrame (s : State) (link : Link) : Moves s (s.failFrame link) := by
  cases link with
  | arm p =>
    have hcount : Move s (s.countError (.arm p)) := move_setLink id
    have hreply (u : State) : Move u (u.failArm p) := move_setLink id
    exact (hcount.moves.trans (move_updSticky _ _).moves).trans (hreply _).moves
  | cell =>
    have hcount : Move s (s.countError .cell) := move_cell s _
    have hreply (u : State) : Move u u.failCell := move_cell u _
    exact (hcount.moves.trans (move_updSticky _ _).moves).trans (hreply _).moves

theorem move_setIncoming (s : State) (link : Link) (x : Option (List Byte)) : Move s (s.setIncoming link x) := by
  cases link with
  | arm p => exact move_setLink id
  | cell => exact move_cell s _

theorem moves_abandonFrames (s : State) : Moves s s.abandonFrames :=
  ((move_setIncoming s _ _).moves.trans (move_setIncoming _ _ _).moves).trans (move_setIncoming _ _ _).moves

/-- The two reset inputs move, and the part is still held in reset (R173). -/
theorem move_resets {s : State} {a b : Bool} (h : (a || b) = true) :
    Move s { s with resetnLow := a, supplyLow := b } where
  held hr := by rw [show State.inReset { s with resetnLow := a, supplyLow := b } = (a || b) from rfl, h] at hr; cases hr

theorem execResetnRelease_takes {s t : State} (h : execResetnRelease s = .next t) : Takes s t := by
  unfold execResetnRelease at h
  cases h
  split
  · next hs =>
    exact (move_resets (s := s) (a := false) (b := s.supplyLow) hs).moves.takes
  · exact (Happens.reset s).takes

theorem execPowerOnReset_takes {s t : State} (h : execPowerOnReset s = .next t) : Takes s t := by
  unfold execPowerOnReset at h
  cases h
  split
  · next hs =>
    exact ((moves_abandonFrames s).trans
      (move_resets (s := s.abandonFrames) (a := s.resetnLow) (b := false) (by rw [hs]; rfl)).moves).takes
  · exact (Happens.reset s).takes

/-! ### Every command -/

/-- Each command by its own meaning: a frame by its owner, an event by its effect. -/
theorem exec_takes {i : Instr} {s t : State} (h : exec i s = .next t) : Takes s t := by
  cases i <;> dsimp only [exec] at h
  case nop => exact takeArmFrame_takes (.refl s) h
  case attach arm => exact takeArmFrame_takes (gateRequest_takes fun hm => attachOwner_takes hm arm) h
  case detach arm => exact takeArmFrame_takes (gateRequest_takes fun _ => detachOwner_takes arm s) h
  case report arm arg xa ya za v =>
    refine takeArmFrame_takes ?_ h
    cases hm : s.mode with
    | config => exact .refl s
    | run => exact reportOwner_takes hm arm _ _ _ _ _
  case claim arm cls box => exact takeArmFrame_takes (gateRequest_takes fun hm => claimOwner_takes hm arm cls box) h
  case release arm slot gen => exact takeArmFrame_takes (gateRequest_takes fun _ => releaseOwner_takes arm slot gen s) h
  case cancel arm slot gen => exact takeArmFrame_takes (gateRequest_takes fun _ => cancelOwner_takes arm slot gen s) h
  case query arm slot gen =>
    exact takeArmFrame_takes (gateRequest_takes fun _ => withHandle_takes fun _ _ _ => .refl s) h
  case list arm start => exact takeArmFrame_takes (gateRequest_takes fun _ => listOwner_takes arm start s) h
  case ackstop arm => exact takeArmFrame_takes (gateRequest_takes fun _ => ackstopOwner_takes arm s) h
  case unknownKind link kind =>
    cases link <;> dsimp only [execUnknownKind] at h
    case arm p => exact takeArmFrame_takes (.refl s) h
    case cell => exact takeCellFrame_takes (.refl s) h
  case frameFailed link => exact takeEvent_takes (fun _ => (moves_failFrame s link).takes) h
  case cellNop => exact takeCellFrame_takes (.refl s) h
  case ident => exact takeCellFrame_takes (.refl s) h
  case setModeRun target => exact takeCellFrame_takes (setModeOwner_takes target s) h
  case setModeConfig => exact takeCellFrame_takes (setModeOwner_takes 0 s) h
  case loadCal arm c sn ox oy oz rxy rz =>
    exact takeCellFrame_takes (configOnly_takes fun _ => loadCalOwner_takes arm _ s) h
  case loadProfile arm profile decel react cap =>
    exact takeCellFrame_takes (configOnly_takes fun _ => loadProfileOwner_takes arm profile _ s) h
  case loadTiming => exact takeCellFrame_takes (configOnly_takes fun hm => (Happens.timing _ hm).takes) h
  case setLine line func polarity debounce =>
    exact takeCellFrame_takes (configOnly_takes fun _ => setLineOwner_takes line func polarity debounce s) h
  case setGeometry geometry =>
    exact takeCellFrame_takes (configOnly_takes fun hm => setGeometryOwner_takes hm geometry) h
  case mapFill code box => exact takeCellFrame_takes (configOnly_takes fun hm => mapFillOwner_takes hm code box) h
  case mapClear =>
    exact takeCellFrame_takes (configOnly_takes fun hm => (Happens.map s.keepOut.geometry [] hm).takes) h
  case mapCursor index => exact takeCellFrame_takes (configOnly_takes fun _ => mapCursorOwner_takes index s) h
  case mapRead => exact takeCellFrame_takes (move_cell s _).moves.takes h
  case groupSet group value => exact takeCellFrame_takes (groupSetOwner_takes group value s) h
  case forceProfile arm value => exact takeCellFrame_takes (forceProfileOwner_takes arm value s) h
  case stop arm => exact takeCellFrame_takes (stopOwner_takes arm s) h
  case resume arm => exact takeCellFrame_takes (resumeOwner_takes arm s) h
  case purgeArm arm => exact takeCellFrame_takes (purgeArmOwner_takes arm s) h
  case purgeClaim slot gen => exact takeCellFrame_takes (purgeClaimOwner_takes slot gen s) h
  case setCursor slot => exact takeCellFrame_takes (setCursorOwner_takes slot s) h
  case readClaim => exact takeCellFrame_takes (move_cell s _).moves.takes h
  case readArm arm =>
    refine takeCellFrame_takes ?_ h
    unfold readArmOwner
    split <;> exact .refl s
  case setOut => exact takeCellFrame_takes (move_writeOutputs s _).moves.takes h
  case toggleOut => exact takeCellFrame_takes (move_writeOutputs s _).moves.takes h
  case readLines => exact takeCellFrame_takes (.refl s) h
  case readEvents => exact takeCellFrame_takes (.refl s) h
  case clearEvents flags =>
    have hclear : Move s (s.clearFlags flags) := move_updSticky s _
    exact takeCellFrame_takes hclear.moves.takes h
  case setMask => exact takeCellFrame_takes (move_events s _).moves.takes h
  case readCounters => exact takeCellFrame_takes (.refl s) h
  case clearCounters set => exact takeCellFrame_takes (clearCountersOwner_takes set s) h
  case setAccEnable => exact takeCellFrame_takes (move_events s _).moves.takes h
  case lapse slot => exact takeEvent_takes (fun _ => (moves_lapseSlot s slot).takes) h
  case waitExpiry slot => exact takeEvent_takes (fun _ => (moves_expireWait s slot).takes) h
  case reportTimerExpiry arm => exact takeEvent_takes (fun _ => (moves_expireReportTimer s arm).takes) h
  case rawLevelChange line level => cases h; exact takes_changeRaw s line level
  case filterTimerExpiry line => exact takeEvent_takes (fun hr => takes_expireFilter hr line) h
  case accumulatorStep => exact takeEvent_takes takes_millisecond h
  case resetnAssert =>
    cases h
    exact ((moves_abandonFrames s).trans
      (move_resets (s := s.abandonFrames) (a := true) (b := s.supplyLow) rfl).moves).takes
  case resetnRelease => exact execResetnRelease_takes h
  case powerOnReset => exact execPowerOnReset_takes h
  case supplyBelowPowerOnThreshold =>
    cases h
    exact ((moves_abandonFrames s).trans
      (move_resets (s := s.abandonFrames) (a := s.resetnLow) (b := true) (Bool.or_true _)).moves).takes

/-- Every step is a chain of the things that can happen; taking the front command off the queue is one. -/
theorem step_takes {s t : State} (h : step s = .next t) : Takes s t := by
  unfold step at h
  split at h
  · cases h
    exact .refl s
  · next i rest _ =>
    have hpop : Move s { s with pending := rest } := {}
    exact hpop.moves.takes.trans (exec_takes h)

end Sys2Proof.Machine
end

section
/-! PROOFS. CONFIG stays quiet, and no GRANTED claim touches an active group in RUN: O53. -/

namespace Sys2Proof.Machine

/-! ### What a move leaves in CONFIG -/

/-- In CONFIG no guard controller record moves (R121). -/
theorem GuardMove.of_reset {s : State} {p : Arm} {g : Guard} (h : GuardMove s p g) (hm : s.mode = .config)
    (hr : s.guard p = Guard.reset) : g = Guard.reset := by
  have hstate : s.armState p = .detached := congrArg Guard.state hr
  cases h with
  | same => exact hr
  | tick => rw [hr]; rfl
  | stop _ _ h => rw [hstate] at h; simp at h
  | resume h => rw [hstate] at h; cases h
  | attach h => rw [hm] at h; cases h
  | detach h => rw [hstate] at h; cases h
  | lose h => rw [hstate] at h; simp at h
  | back h => rw [hstate] at h; cases h
  | restart h => rw [hstate] at h; simp at h
  | handshake _ _ h => rw [hstate] at h; cases h

/-- A report record as CONFIG leaves it (R104): invalid, with the forced profile that it has. -/
def ReportRecord.Quiet (r : ReportRecord) : Prop :=
  r = { requested := .full, forced := r.forced, inUse := .full, pending := false, last := none, fresh := false }

theorem RecordMove.quiet {s : State} {p : Arm} {r : ReportRecord} (h : RecordMove s p r) (hm : s.mode = .config)
    (hq : (s.record p).Quiet) : r.Quiet := by
  cases h with
  | same => exact hq
  | forced f => rw [hq]; rfl
  | stale => rw [hq]; rfl
  | judged f => rw [hq]; rfl
  | report _ h => rw [hm] at h; cases h

/-- In CONFIG no slot takes a claim (R47). -/
theorem BodyMove.of_free {s : State} {b b' : SlotBody} (h : BodyMove s b b') (hm : s.mode = .config) (hb : b = .free) :
    b' = .free := by
  cases h with
  | same => exact hb
  | freed => rfl
  | tick => rw [hb]; rfl
  | reblocked => cases hb
  | granted => cases hb
  | entered h => rw [hb] at h; cases h
  | leaving h => rw [hb] at h; cases h
  | claimed _ h => rw [hm] at h; cases h
  | waits _ _ h => rw [hm] at h; cases h

theorem Move.configQuiet {s t : State} (h : Move s t) (hs : s.ConfigQuiet) : t.ConfigQuiet := by
  intro hm
  rw [h.mode] at hm
  obtain ⟨hfree, hwait, hp⟩ := hs hm
  obtain ⟨htwait, hlinks⟩ := h.quiet hm hfree
  refine ⟨fun k => (h.body k).of_free hm (hfree k), htwait hwait, fun p => ?_⟩
  obtain ⟨hguard, hrecord, hlink⟩ := hp p
  exact ⟨(h.guard p).of_reset hm hguard, (h.record p).quiet hm hrecord, hlinks p hlink⟩

/-! ### What else can happen in CONFIG -/

/-- A change of a source leaves everything but the lines and the supervisor flags. -/
theorem SourceChange.fields {s u : State} (h : SourceChange s u) :
    u.mode = s.mode ∧ u.timing = s.timing ∧ u.guards = s.guards ∧ u.records = s.records ∧ u.slots = s.slots ∧
      u.inReset = s.inReset := by
  have hmode := congrArg State.mode h.frame
  have htiming := congrArg State.timing h.frame
  have hguards := congrArg State.guards h.frame
  have hrecords := congrArg State.records h.frame
  have hslots := congrArg State.slots h.frame
  have hreset := congrArg State.inReset h.frame
  exact ⟨hmode, htiming, hguards, hrecords, hslots, hreset⟩

theorem SourceChange.configQuiet {s u : State} (h : SourceChange s u) (hs : s.ConfigQuiet) : u.ConfigQuiet := by
  rw [← h.frame] at hs
  exact hs

/-- The slots after the teardown of the table (R47). -/
theorem slot_enterConfig (s : State) (k : Fin 24) :
    s.enterConfig.slot k = if s.body k = .free then s.slot k else { gen := (s.slot k).gen + 1, body := .free } := by
  have hslot : s.enterConfig.slot k =
      if s.isFree k then s.slot k else { gen := (s.slot k).gen + 1, body := .free } := by
    unfold State.enterConfig State.tearDown State.slot
    simp only [Fin.getElem_fin, Vector.getElem_ofFn]
  rw [hslot]
  exact if_congr (isFree_iff s k) rfl rfl

theorem body_enterConfig (s : State) (k : Fin 24) : s.enterConfig.body k = .free := by
  show (s.enterConfig.slot k).body = .free
  rw [slot_enterConfig]
  split
  · next h => exact h
  · rfl

theorem configQuiet_enterConfig (s : State) : s.enterConfig.ConfigQuiet := fun _ =>
  ⟨body_enterConfig s, rfl, fun p => by cases p <;> exact ⟨rfl, rfl, rfl, rfl⟩⟩

theorem configQuiet_endReset (s : State) : s.endReset.ConfigQuiet := fun _ =>
  ⟨body_endReset s, rfl, fun p => by cases p <;> exact ⟨rfl, rfl, rfl, rfl⟩⟩

theorem Happens.configQuiet {s t : State} (h : Happens s t) (hs : s.ConfigQuiet) : t.ConfigQuiet := by
  cases h with
  | move h => exact h.configQuiet hs
  | sources h => exact (moves_afterSources s _).keeps (fun h => h.configQuiet) (h.configQuiet hs)
  | timing => exact hs
  | map => exact hs
  | run => exact nofun
  | config => exact configQuiet_enterConfig s
  | reset => exact configQuiet_endReset s

/-! ### GRANTED claims and active groups -/

theorem LineMove.sources {s : State} {l l' : Line} (h : LineMove s l l') :
    l'.func = l.func ∧ l'.filtered = l.filtered := by
  cases h <;> exact ⟨rfl, rfl⟩

/-- A move changes no group's activity. -/
theorem Move.groupActive {s t : State} (h : Move s t) (g : Group) : t.groupActive g = s.groupActive g := by
  have hfunc n := (h.line n).sources.1
  have hfiltered n := (h.line n).sources.2
  simp only [State.groupActive, State.groupLineActive, h.keepOut, hfunc, hfiltered]

/-- In RUN a GRANTED claim touches no active group but those that P names: the groups whose activation is still to be
taken. -/
def State.GrantedClearBut (P : Group → Prop) (s : State) : Prop :=
  s.mode = .run → ∀ k c left, s.body k = .granted c left → ∀ g, s.groupActive g = true →
    s.keepOut.touchesGroup c.box g = true → P g

theorem activeGroupsTouched_eq_nil_iff (s : State) (b : Box) :
    s.activeGroupsTouched b = [] ↔ ∀ g, s.groupActive g = true → s.keepOut.touchesGroup b g = true → False := by
  unfold State.activeGroupsTouched
  simp [List.filter_eq_nil_iff]

theorem grantedClear_iff (s : State) : s.GrantedClear ↔ s.GrantedClearBut fun _ => False := by
  simp only [State.GrantedClear, State.GrantedClearBut, activeGroupsTouched_eq_nil_iff]

theorem State.GrantedClearBut.mono {P Q : Group → Prop} {s : State} (h : s.GrantedClearBut P)
    (hPQ : ∀ g, s.groupActive g = true → P g → Q g) : s.GrantedClearBut Q :=
  fun hm k c left hb g hg ht => hPQ g hg (h hm k c left hb g hg ht)

/-- A claim GRANTED after a move was GRANTED before it, or has just been screened (R53, R71). -/
theorem BodyMove.granted_iff {s : State} {b b' : SlotBody} (h : BodyMove s b b') {c : ClaimData} {left : Nat}
    (hb : b' = .granted c left) : (∃ l, b = .granted c l) ∨ s.activeGroupsTouched c.box = [] := by
  cases h with
  | same => exact .inl ⟨left, hb⟩
  | granted _ _ _ h => cases hb; exact .inr h
  | claimed _ _ h => cases hb; exact .inr h
  | tick =>
    cases b with
    | granted d l => cases hb; exact .inl ⟨l, rfl⟩
    | _ => cases hb
  | _ => cases hb

theorem Move.grantedClearBut {P : Group → Prop} {s t : State} (h : Move s t) (hs : s.GrantedClearBut P) :
    t.GrantedClearBut P := by
  intro hm k c left hb g hg ht
  rw [h.mode] at hm
  rw [h.groupActive] at hg
  rw [h.keepOut] at ht
  rcases (h.body k).granted_iff hb with ⟨l, hl⟩ | hclear
  · exact hs hm k c l hl g hg ht
  · exact ((activeGroupsTouched_eq_nil_iff s c.box).1 hclear g hg ht).elim

theorem Moves.grantedClearBut {P : Group → Prop} {s t : State} (h : Moves s t) (hs : s.GrantedClearBut P) :
    t.GrantedClearBut P := h.keeps (fun h => h.grantedClearBut) hs

theorem mem_revoked (s : State) (g : Group) (k : Fin 24) :
    k ∈ s.revoked g ↔ ∃ c left, s.body k = .granted c left ∧ s.keepOut.touchesGroup c.box g = true := by
  unfold State.revoked
  simp only [List.mem_filter, mem_allSlots, true_and]
  cases s.body k <;> simp

theorem nodup_revoked (s : State) (g : Group) : (s.revoked g).Nodup := nodup_allSlots.filter _

theorem retirable_revoked (s : State) (g : Group) : s.Retirable (s.revoked g) := by
  refine ⟨nodup_revoked s g, fun k hk => ?_⟩
  obtain ⟨c, left, hb, -⟩ := (mem_revoked s g k).1 hk
  rw [hb]
  rfl

/-- The claims that an activation revokes are those that touch the group (R158). -/
theorem grantedClearBut_revoked {P : Group → Prop} {s : State} (g : Group) (hs : s.GrantedClearBut P) :
    (s.retireAll (s.revoked g) (some .revoked) false).GrantedClearBut fun h => P h ∧ h ≠ g := by
  intro hm k c left hb h hactive ht
  refine ⟨(moves_retireAll s _ _ _).grantedClearBut hs hm k c left hb h hactive ht, ?_⟩
  rintro rfl
  rw [body_retireAll _ _ _ s (retirable_revoked s h)] at hb
  rw [(retireAll_frame (s.revoked h) (some .revoked) false s).keepOut] at ht
  split at hb
  · cases hb
  · next hk => exact hk ((mem_revoked s h k).2 ⟨c, left, hb, ht⟩)

/-- The event of one group settles it, where the group was not active before its source changed. -/
theorem grantedClearBut_groupEvent {P : Group → Prop} {s : State} {before : Bool} {g : Group}
    (hs : s.GrantedClearBut P) (hP : P g → before = false) :
    (s.groupEvent before g).GrantedClearBut fun h => P h ∧ h ≠ g := by
  by_cases hm : s.mode = .run
  · by_cases hrise : before = false ∧ s.groupActive g = true
    · obtain ⟨rfl, hg⟩ := hrise
      rw [groupEvent_rise hg]
      exact (moves_groupActivated g hm).grantedClearBut (grantedClearBut_revoked g hs)
    · refine (moves_groupEvent s before g).grantedClearBut (hs.mono fun h hactive hp => ⟨hp, ?_⟩)
      rintro rfl
      exact hrise ⟨hP hp, hactive⟩
  · intro hrun
    have hmode : (s.groupEvent before g).mode = s.mode :=
      (moves_groupEvent s before g).keeps (P := fun u => u.mode = s.mode) (fun h hu => h.mode.trans hu) rfl
    exact absurd (hmode.symm.trans hrun) hm

theorem SourceChange.grantedClearBut {s u : State} (h : SourceChange s u) (hs : s.GrantedClear) :
    u.GrantedClearBut fun g => s.groupActive g = false := by
  obtain ⟨hmode, -, -, -, hslots, -⟩ := h.fields
  have htouch : ∀ b g, u.keepOut.touchesGroup b g = s.keepOut.touchesGroup b g := by
    intro b g
    have hmap := congrArg (fun v : State => v.keepOut.touchesGroup b g) h.frame
    exact hmap
  intro hm k c left hb g _ ht
  rw [hmode] at hm
  rw [State.body_congr hslots] at hb
  rw [htouch] at ht
  exact Bool.eq_false_iff.2 fun hg => (activeGroupsTouched_eq_nil_iff s c.box).1 (hs hm k c left hb) g hg ht

/-- A change of a source revokes the GRANTED claims that touch a group which it makes active (R158). -/
theorem SourceChange.grantedClear {s : State} {change : State → State} (h : SourceChange s (change s))
    (hs : s.GrantedClear) : (s.afterSources change).GrantedClear := by
  have h1 := grantedClearBut_groupEvent (g := .g1) (h.grantedClearBut hs) id
  have h2 := grantedClearBut_groupEvent (g := .g2) h1 fun hp => hp.1
  have h3 := grantedClearBut_groupEvent (g := .g3) h2 fun hp => hp.1.1
  refine (grantedClear_iff _).2 (((moves_estopEvent _ _).grantedClearBut h3).mono fun g _ hp => ?_)
  obtain ⟨⟨⟨-, h1⟩, h2⟩, h3⟩ := hp
  cases g <;> contradiction

theorem grantedClear_of_free {s : State} (h : ∀ k, s.body k = .free) : s.GrantedClear := fun _ k c left hb => by
  rw [h k] at hb; cases hb

theorem Happens.grantedClear {s t : State} (h : Happens s t) (hq : s.ConfigQuiet) (hs : s.GrantedClear) :
    t.GrantedClear := by
  cases h with
  | move h => exact (grantedClear_iff t).2 (h.grantedClearBut ((grantedClear_iff s).1 hs))
  | sources h => exact h.grantedClear hs
  | timing _ _ => exact hs
  | map _ _ hm => exact grantedClear_of_free (hq hm).1
  | run hm => exact grantedClear_of_free (hq hm).1
  | config => exact grantedClear_of_free (body_enterConfig s)
  | reset => exact grantedClear_of_free (body_endReset s)

/-- Settles O53: each thing that happens keeps CONFIG quiet, and with it the GRANTED claims clear of active groups. -/
theorem stepKeepsConfigQuiet : Obligations.StepKeepsConfigQuiet := by
  intro s t hquiet h
  have htakes := step_takes h
  refine ⟨htakes.keeps (fun h => h.configQuiet) hquiet, fun hclear => ?_⟩
  have hboth := htakes.keeps (P := fun u => u.ConfigQuiet ∧ u.GrantedClear)
    (fun h ⟨hq, hc⟩ => ⟨h.configQuiet hq, h.grantedClear hq hc⟩) ⟨hquiet, hclear⟩
  exact hboth.2

end Sys2Proof.Machine
end

section
/-! PROOFS. The guard controllers, the e-stop, the timers and the filters: O54. -/

namespace Sys2Proof.Machine

/-! ### Guard controller records -/

/-- A cause put in a set stays there, whatever joins it (R122). -/
theorem CauseSet.add_ne_empty (c : CauseSet) (cause : StopCause) : c.add cause ≠ CauseSet.empty := by
  cases cause <;> simp [CauseSet.add, CauseSet.empty]

theorem CauseSet.addAll_ne_empty (c : CauseSet) {causes : List StopCause} (h : causes ≠ []) :
    c.addAll causes ≠ CauseSet.empty := by
  obtain ⟨rest, last, rfl⟩ := causes.eq_nil_or_concat'.resolve_left h
  unfold CauseSet.addAll
  rw [List.foldl_concat]
  exact CauseSet.add_ne_empty _ _

theorem Guard.fits_run {g : Guard} (h : g.Fits) (hs : g.state = .run) :
    g.causes = CauseSet.empty ∧ g.resumeRequested = false ∧ g.stopAcknowledged = false ∧
      g.reportTimer.isSome = true := by
  unfold Guard.Fits at h
  rwa [hs] at h

theorem Guard.fits_stopped {g : Guard} (h : g.Fits) (hs : g.state = .stopped) :
    g.causes ≠ CauseSet.empty ∧ g.reportTimer.isSome = true := by
  unfold Guard.Fits at h
  rwa [hs] at h

theorem Guard.fits_detached {g : Guard} (h : g.Fits) (hs : g.state = .detached) :
    g.causes = CauseSet.empty ∧ g.resumeRequested = false ∧ g.stopAcknowledged = false ∧ g.reportTimer = none := by
  unfold Guard.Fits at h
  rwa [hs] at h

theorem Guard.fits_lost {g : Guard} (h : g.Fits) (hs : g.state = .lost) :
    g.causes.link = true ∧ g.resumeRequested = false ∧ g.stopAcknowledged = false ∧ g.reportTimer = none := by
  unfold Guard.Fits at h
  rwa [hs] at h

/-- The report timer runs in RUN and STOPPED. -/
theorem Guard.fits_timer {g : Guard} (h : g.Fits) (hs : g.state = .run ∨ g.state = .stopped) :
    g.reportTimer.isSome = true := by
  rcases hs with hs | hs
  · exact (g.fits_run h hs).2.2.2
  · exact (g.fits_stopped h hs).2

/-- A LINK cause keeps the set from being empty. -/
theorem CauseSet.ne_empty_of_link {c : CauseSet} (h : c.link = true) : c ≠ CauseSet.empty := by
  rintro rfl
  cases h

theorem Guard.fits_tick {g : Guard} (h : g.Fits) :
    ({ g with reportTimer := g.reportTimer.map (· - 1) } : Guard).Fits := by
  unfold Guard.Fits at h ⊢
  cases hs : g.state <;> simpa [hs] using h

theorem GuardMove.fits {s : State} {p : Arm} {g : Guard} (h : GuardMove s p g) (hf : (s.guard p).Fits) : g.Fits := by
  cases h with
  | same => exact hf
  | stop causes hc hs => exact ⟨CauseSet.addAll_ne_empty _ hc, (s.guard p).fits_timer hf hs⟩
  | resume hs => exact ⟨rfl, rfl, rfl, (s.guard p).fits_timer hf (.inr hs)⟩
  | attach _ hs =>
    obtain ⟨hcauses, hrequested, hacknowledged, -⟩ := (s.guard p).fits_detached hf hs
    exact ⟨hcauses, hrequested, hacknowledged, rfl⟩
  | detach hs =>
    obtain ⟨hcauses, hrequested, hacknowledged, -⟩ := (s.guard p).fits_run hf hs
    exact ⟨hcauses, hrequested, hacknowledged, rfl⟩
  | lose => exact ⟨rfl, rfl, rfl, rfl⟩
  | back hs =>
    obtain ⟨hlink, -⟩ := (s.guard p).fits_lost hf hs
    refine ⟨?_, rfl⟩
    dsimp only
    split
    · exact CauseSet.add_ne_empty _ _
    · exact CauseSet.ne_empty_of_link hlink
  | restart hs =>
    have hs' : (s.guard p).state = .run ∨ (s.guard p).state = .stopped := hs
    unfold Guard.Fits at hf ⊢
    rcases hs' with hs' | hs' <;> simp only [hs'] at hf ⊢ <;> simp [hf]
  | handshake _ _ hs =>
    have hstopped := (s.guard p).fits_stopped hf hs
    have hs' : (s.guard p).state = .stopped := hs
    unfold Guard.Fits
    rw [hs']
    exact hstopped
  | tick => exact Guard.fits_tick hf

theorem Move.guardsFit {s t : State} (h : Move s t) (hs : s.GuardsFit) : t.GuardsFit := fun p => (h.guard p).fits (hs p)

theorem guardsFit_of_reset {s : State} (h : ∀ p, s.guard p = Guard.reset) : s.GuardsFit := fun p => by
  rw [h p]
  exact ⟨rfl, rfl, rfl, rfl⟩

theorem guard_enterConfig (s : State) (p : Arm) : s.enterConfig.guard p = Guard.reset := by cases p <;> rfl

theorem line_enterConfig (s : State) (n : Fin 8) : s.enterConfig.line n = s.line n := by
  have hlines : s.enterConfig.lines = s.lines := by unfold State.enterConfig State.tearDown; rfl
  unfold State.line
  rw [hlines]

theorem inReset_enterConfig (s : State) : s.enterConfig.inReset = s.inReset := by
  unfold State.enterConfig State.tearDown; rfl

theorem guard_endReset (s : State) (p : Arm) : s.endReset.guard p = Guard.reset := by cases p <;> rfl

theorem SourceChange.guard {s u : State} (h : SourceChange s u) (p : Arm) : u.guard p = s.guard p := by
  obtain ⟨-, -, hguards, -⟩ := h.fields
  exact congrArg (·.get p) hguards

theorem Happens.guardsFit {s t : State} (h : Happens s t) (hs : s.GuardsFit) : t.GuardsFit := by
  cases h with
  | move h => exact h.guardsFit hs
  | sources h => exact (moves_afterSources s _).keeps (fun h => h.guardsFit) fun p => h.guard p ▸ hs p
  | timing | map | run => exact hs
  | config => exact guardsFit_of_reset (guard_enterConfig s)
  | reset => exact guardsFit_of_reset (guard_endReset s)

/-! ### The e-stop -/

theorem Move.estopActive {s t : State} (h : Move s t) : t.estopActive = s.estopActive := by
  have hfunc n := (h.line n).sources.1
  have hfiltered n := (h.line n).sources.2
  simp only [State.estopActive, hfunc, hfiltered]

theorem Moves.estopActive {s t : State} (h : Moves s t) : t.estopActive = s.estopActive :=
  h.keeps (P := fun u => u.estopActive = s.estopActive) (fun h hu => h.estopActive.trans hu) rfl

/-- An arm enters RUN only where the e-stop is inactive (R123, R139). -/
theorem GuardMove.run_iff {s : State} {p : Arm} {g : Guard} (h : GuardMove s p g) (hg : g.state = .run) :
    s.armState p = .run ∨ s.estopActive = false := by
  cases h with
  | same | tick | restart => exact .inl hg
  | resume _ hf =>
    obtain ⟨hestop, -⟩ := (resumeFits_iff s p).1 hf
    exact .inr hestop
  | attach _ _ hf =>
    simp only [State.attachFits, Bool.and_eq_true, Bool.not_eq_true'] at hf
    exact .inr hf.2
  | handshake _ _ hs =>
    have hstopped : (s.guard p).state = .stopped := hs
    exact .inl hg
  | stop | detach | lose | back => cases hg

theorem Move.estopHolds {s t : State} (h : Move s t) (hs : s.EstopHolds) : t.EstopHolds := by
  intro he p hp
  rw [h.estopActive] at he
  rcases (h.guard p).run_iff hp with hrun | hoff
  · exact hs he p hrun
  · rw [he] at hoff; cases hoff

theorem Moves.estopHolds {s t : State} (h : Moves s t) (hs : s.EstopHolds) : t.EstopHolds :=
  h.keeps (fun h => h.estopHolds) hs

/-- The e-stop's activation stops both arms (R128). -/
theorem estopHolds_stopArms (s : State) : ((s.stopArm .a .estop).stopArm .b .estop).EstopHolds := by
  intro _ p hp
  have hstops (u : State) (q : Arm) : (u.stopArm q .estop).armState q ≠ .run := by
    unfold State.armState
    rw [guard_stopArm]
    split
    · exact nofun
    · next h => exact fun hrun => h ⟨rfl, .inl hrun⟩
  have hkeeps (u : State) (q r : Arm) (hr : u.armState r ≠ .run) : (u.stopArm q .estop).armState r ≠ .run := by
    unfold State.armState
    rw [guard_stopArm]
    split
    · exact nofun
    · exact hr
  cases p
  · exact hkeeps _ .b .a (hstops s .a) hp
  · exact hstops _ .b hp

/-- A change of a source stops both arms where it makes the e-stop active (R128, R168). -/
theorem SourceChange.estopHolds {s : State} {change : State → State} (h : SourceChange s (change s))
    (hs : s.EstopHolds) : (s.afterSources change).EstopHolds := by
  have hgroups := ((moves_groupEvent (change s) (s.groupActive .g1) .g1).trans
    (moves_groupEvent _ (s.groupActive .g2) .g2)).trans (moves_groupEvent _ (s.groupActive .g3) .g3)
  have hsame := (moves_afterSources s change).estopActive
  by_cases hrise : s.estopActive = false ∧ (change s).estopActive = true
  · obtain ⟨hbefore, hnow⟩ := hrise
    unfold State.afterSources
    dsimp only
    rw [hbefore, estopEvent_rise (hgroups.estopActive.trans hnow)]
    exact estopHolds_stopArms _
  · refine (moves_afterSources s change).estopHolds fun he p hp => ?_
    have hbefore : s.estopActive = true := by
      cases hb : s.estopActive with
      | true => rfl
      | false => exact absurd ⟨hb, he⟩ hrise
    unfold State.armState at hp
    rw [h.guard] at hp
    exact hs hbefore p hp

theorem estopHolds_of_reset {s : State} (h : ∀ p, s.guard p = Guard.reset) : s.EstopHolds := fun _ p hp => by
  unfold State.armState at hp
  rw [h p] at hp
  cases hp

theorem Happens.estopHolds {s t : State} (h : Happens s t) (hs : s.EstopHolds) : t.EstopHolds := by
  cases h with
  | move h => exact h.estopHolds hs
  | sources h => exact h.estopHolds hs
  | timing | map | run => exact hs
  | config => exact estopHolds_of_reset (guard_enterConfig s)
  | reset => exact estopHolds_of_reset (guard_endReset s)

/-! ### Timers -/

/-- A slot's lapse or wait timer has no more left than T_entry or T_wait (R63, R79). -/
def SlotBody.Timed (s : State) : SlotBody → Prop
  | .granted _ left => left ≤ s.entryMs
  | .waiting _ left _ => left ≤ s.waitMs
  | _ => True

/-- What the lapse, wait and report timers of a state have left, and what the filters' have. -/
theorem timersBounded_iff (s : State) :
    s.TimersBounded ↔ (∀ k, (s.body k).Timed s) ∧ (∀ p n, (s.guard p).reportTimer = some n → n ≤ s.reportMs) ∧
      ∀ n t, (s.line n).filterTimer = some t → t ≤ (s.line n).debounce := by
  unfold State.TimersBounded
  rw [← and_assoc]
  refine and_congr_left fun _ => ⟨fun ⟨hgranted, hwaiting⟩ k => ?_,
    fun h => ⟨fun k c left hb => ?_, fun k c left bl hb => ?_⟩⟩
  · cases hb : s.body k with
    | granted c left => exact hgranted k c left hb
    | waiting c left bl => exact hwaiting k c left bl hb
    | _ => trivial
  · have hk := h k
    rwa [hb] at hk
  · have hk := h k
    rwa [hb] at hk

theorem BodyMove.timed {s : State} {b b' : SlotBody} (h : BodyMove s b b') (hb : b.Timed s) : b'.Timed s := by
  cases h with
  | same | reblocked => exact hb
  | freed | entered | leaving => trivial
  | granted | claimed | waits => exact Nat.le_refl _
  | tick =>
    cases b with
    | granted | waiting => exact (Nat.sub_le _ _).trans hb
    | _ => trivial

theorem GuardMove.timer_le {s : State} {p : Arm} {g : Guard} (h : GuardMove s p g)
    (hs : ∀ n, (s.guard p).reportTimer = some n → n ≤ s.reportMs) :
    ∀ n, g.reportTimer = some n → n ≤ s.reportMs := by
  intro n hn
  cases h with
  | same | stop | resume | handshake => exact hs n hn
  | attach | back | restart => cases hn; exact Nat.le_refl _
  | detach | lose => cases hn
  | tick =>
    obtain ⟨m, hm, rfl⟩ := Option.map_eq_some_iff.1 hn
    exact (Nat.sub_le _ _).trans (hs m hm)

theorem LineMove.timer_le {s : State} {l l' : Line} (h : LineMove s l l')
    (hs : ∀ t, l.filterTimer = some t → t ≤ l.debounce) : ∀ t, l'.filterTimer = some t → t ≤ l'.debounce := by
  intro t ht
  cases h with
  | same | held | output | out => exact hs t ht
  | settles => cases ht
  | starts => cases ht; exact Nat.le_refl _
  | tick =>
    obtain ⟨m, hm, rfl⟩ := Option.map_eq_some_iff.1 ht
    exact (Nat.sub_le _ _).trans (hs m hm)

/-- T_entry, T_wait and T_report are settings (R191). -/
theorem timed_congr {s t : State} (h : t.timing = s.timing) (b : SlotBody) : b.Timed t ↔ b.Timed s := by
  cases b <;> simp only [SlotBody.Timed, State.entryMs, State.waitMs, h]

theorem reportMs_congr {s t : State} (h : t.timing = s.timing) : t.reportMs = s.reportMs := by
  unfold State.reportMs; rw [h]

theorem Move.timersBounded {s t : State} (h : Move s t) (hs : s.TimersBounded) : t.TimersBounded := by
  obtain ⟨hbodies, hguards, hlines⟩ := (timersBounded_iff s).1 hs
  rw [timersBounded_iff, reportMs_congr h.timing]
  exact ⟨fun k => (timed_congr h.timing _).2 ((h.body k).timed (hbodies k)), fun p => (h.guard p).timer_le (hguards p),
    fun n => (h.line n).timer_le (hlines n)⟩

theorem SourceLine.timer_le {s : State} {l l' : Line} (h : SourceLine s l l')
    (hs : ∀ t, l.filterTimer = some t → t ≤ l.debounce) : ∀ t, l'.filterTimer = some t → t ≤ l'.debounce := by
  intro t ht
  cases h with
  | same => exact hs t ht
  | configured | filtered | stray => cases ht

theorem SourceChange.timersBounded {s u : State} (h : SourceChange s u) (hs : s.TimersBounded) : u.TimersBounded := by
  obtain ⟨-, htiming, -, -, hslots, -⟩ := h.fields
  obtain ⟨hbodies, hguards, hlines⟩ := (timersBounded_iff s).1 hs
  rw [timersBounded_iff, reportMs_congr htiming]
  refine ⟨fun k => ?_, fun p => h.guard p ▸ hguards p, fun n => (h.line n).timer_le (hlines n)⟩
  rw [timed_congr htiming, State.body_congr hslots]
  exact hbodies k

/-- Where no claim stands and no arm is attached, only the filters' timers can run. -/
theorem timersBounded_of_quiet {s : State} (hfree : ∀ k, s.body k = .free) (hreset : ∀ p, s.guard p = Guard.reset)
    (hline : ∀ n t, (s.line n).filterTimer = some t → t ≤ (s.line n).debounce) : s.TimersBounded := by
  refine (timersBounded_iff s).2 ⟨fun k => ?_, fun p n hn => ?_, hline⟩
  · rw [hfree k]; trivial
  · rw [hreset p] at hn; cases hn

theorem timersBounded_endReset (s : State) : s.endReset.TimersBounded := by
  refine timersBounded_of_quiet (body_endReset s) (guard_endReset s) fun n t ht => ?_
  rw [line_endReset] at ht
  cases ht

theorem Happens.timersBounded {s t : State} (h : Happens s t) (hq : s.ConfigQuiet) (hs : s.TimersBounded) :
    t.TimersBounded := by
  cases h with
  | move h => exact h.timersBounded hs
  | sources h => exact (moves_afterSources s _).keeps (fun h => h.timersBounded) (h.timersBounded hs)
  | timing x hm =>
    obtain ⟨hfree, -, hp⟩ := hq hm
    obtain ⟨-, -, -, hlines⟩ := hs
    exact timersBounded_of_quiet hfree (fun p => (hp p).1) hlines
  | map | run => exact hs
  | config =>
    obtain ⟨-, -, -, hlines⟩ := hs
    refine timersBounded_of_quiet (body_enterConfig s) (guard_enterConfig s) fun n => ?_
    rw [line_enterConfig]
    exact hlines n
  | reset => exact timersBounded_endReset s

/-! ### Filters -/

/-- A line's filter timer runs just while its raw level differs from its filtered level, and an output line has
neither (R167). -/
def Line.Filtered (l : Line) : Prop :=
  if l.func.isOutput = true then l.filtered = false ∧ l.filterTimer = none
  else (l.filterTimer.isSome = true ↔ levelActive l.polarity l.wire ≠ l.filtered)

theorem filtersFit_iff (s : State) : s.FiltersFit ↔ (s.inReset = false → ∀ n, (s.line n).Filtered) := Iff.rfl

theorem Line.filtered_input {l : Line} (h : l.func.isOutput = false) :
    l.Filtered ↔ (l.filterTimer.isSome = true ↔ levelActive l.polarity l.wire ≠ l.filtered) := by
  unfold Line.Filtered
  rw [if_neg (by rw [h]; simp)]

theorem Line.filtered_output {l : Line} (h : l.func.isOutput = true) :
    l.Filtered ↔ l.filtered = false ∧ l.filterTimer = none := by
  unfold Line.Filtered
  rw [if_pos h]

theorem Line.filtered_of_input {l : Line} (h : l.func.isOutput = false)
    (hf : l.filterTimer.isSome = true ↔ levelActive l.polarity l.wire ≠ l.filtered) : l.Filtered :=
  (Line.filtered_input h).2 hf

theorem Line.filtered_of_output {l : Line} (h : l.func.isOutput = true) (hf : l.filtered = false)
    (ht : l.filterTimer = none) : l.Filtered := (Line.filtered_output h).2 ⟨hf, ht⟩

theorem LineMove.filtered {s : State} {l l' : Line} (h : LineMove s l l') (hr : s.inReset = false) (hl : l.Filtered) :
    l'.Filtered := by
  cases h with
  | same | out => exact hl
  | held _ h => rw [hr] at h; cases h
  | output _ _ ho =>
    obtain ⟨hf, ht⟩ := (Line.filtered_output ho).1 hl
    exact Line.filtered_of_output ho hf ht
  | settles _ ho hw => exact Line.filtered_of_input ho ⟨fun h => Bool.noConfusion h, fun hne => absurd hw hne⟩
  | starts _ ho hw => exact Line.filtered_of_input ho ⟨fun _ => hw, fun _ => rfl⟩
  | tick =>
    unfold Line.Filtered at hl ⊢
    simpa using hl

theorem Move.filtersFit {s t : State} (h : Move s t) (hs : s.FiltersFit) : t.FiltersFit := fun hr n =>
  (h.line n).filtered (h.held hr) (hs (h.held hr) n)

theorem SourceLine.filtered_line {s : State} {l l' : Line} (h : SourceLine s l l') (hl : l.Filtered) : l'.Filtered := by
  cases h with
  | same => exact hl
  | configured f pol debounce =>
    cases ho : f.isOutput with
    | true => exact Line.filtered_of_output ho (by simp) rfl
    | false => exact Line.filtered_of_input ho (by simp)
  | filtered w ho => exact Line.filtered_of_input ho (by simp)
  | stray _ _ ho ht =>
    obtain ⟨-, hnone⟩ := (Line.filtered_output ho).1 hl
    rw [hnone] at ht
    cases ht

theorem SourceChange.filtersFit {s u : State} (h : SourceChange s u) (hs : s.FiltersFit) : u.FiltersFit := by
  obtain ⟨-, -, -, -, -, hreset⟩ := h.fields
  exact fun hr n => (h.line n).filtered_line (hs (hreset ▸ hr) n)

theorem filtersFit_endReset (s : State) : s.endReset.FiltersFit := fun _ n => by
  rw [line_endReset]
  cases (s.line n).wire <;> decide

theorem Happens.filtersFit {s t : State} (h : Happens s t) (hs : s.FiltersFit) : t.FiltersFit := by
  cases h with
  | move h => exact h.filtersFit hs
  | sources h => exact (moves_afterSources s _).keeps (fun h => h.filtersFit) (h.filtersFit hs)
  | timing | map | run => exact hs
  | config =>
    intro hr n
    rw [inReset_enterConfig] at hr
    rw [line_enterConfig]
    exact hs hr n
  | reset => exact filtersFit_endReset s

/-- Settles O54: each thing that happens keeps the guard controller records, the e-stop, the timers and the filters. -/
theorem stepKeepsGuardsAndTimers : Obligations.StepKeepsGuardsAndTimers := by
  intro s t h
  have htakes := step_takes h
  refine ⟨htakes.keeps fun h => h.guardsFit, htakes.keeps fun h => h.estopHolds, fun hquiet htimers => ?_,
    htakes.keeps fun h => h.filtersFit⟩
  have hboth := htakes.keeps (P := fun u => u.ConfigQuiet ∧ u.TimersBounded)
    (fun h ⟨hq, ht⟩ => ⟨h.configQuiet hq, h.timersBounded hq ht⟩) ⟨hquiet, htimers⟩
  exact hboth.2

end Sys2Proof.Machine
end

section
/-! PROOFS. Counts, quotas and the validity of report records: O55. -/

namespace Sys2Proof.Machine

theorem countOf_of_free {s : State} (h : ∀ k, s.body k = .free) (p : Arm) : s.countOf p = 0 := by
  unfold State.countOf State.claimsOf
  rw [List.length_eq_zero_iff, List.filter_eq_nil_iff]
  intro k _
  unfold State.holdsClaim
  rw [h k]
  exact nofun

/-! ### Quotas -/

theorem Move.withinQuota {s t : State} (h : Move s t) (hs : s.WithinQuota) : t.WithinQuota := by
  intro p
  rw [h.timing]
  rcases h.count p with hle | ⟨-, -, hroom⟩
  · exact hle.trans (hs p)
  · exact hroom

theorem withinQuota_of_free {s : State} (h : ∀ k, s.body k = .free) : s.WithinQuota := fun p => by
  rw [countOf_of_free h]
  exact Nat.zero_le _

theorem SourceChange.countOf {s u : State} (h : SourceChange s u) (p : Arm) : u.countOf p = s.countOf p := by
  obtain ⟨-, -, -, -, hslots, -⟩ := h.fields
  exact State.countOf_congr hslots p

theorem SourceChange.withinQuota {s u : State} (h : SourceChange s u) (hs : s.WithinQuota) : u.WithinQuota := by
  obtain ⟨-, htiming, -⟩ := h.fields
  intro p
  rw [h.countOf, htiming]
  exact hs p

theorem Happens.withinQuota {s t : State} (h : Happens s t) (hq : s.ConfigQuiet) (hs : s.WithinQuota) :
    t.WithinQuota := by
  cases h with
  | move h => exact h.withinQuota hs
  | sources h => exact (moves_afterSources s _).keeps (fun h => h.withinQuota) (h.withinQuota hs)
  | timing x hm => exact withinQuota_of_free (s := { s with timing := x }) (hq hm).1
  | map | run => exact hs
  | config => exact withinQuota_of_free (body_enterConfig s)
  | reset => exact withinQuota_of_free (body_endReset s)

/-! ### DETACHED arms -/

/-- An arm leaves RUN for DETACHED without a claim (R124). -/
theorem GuardMove.detached {s : State} {p : Arm} {g : Guard} (h : GuardMove s p g) (hg : g.state = .detached) :
    s.armState p = .detached ∨ s.armState p = .run ∧ s.countOf p = 0 := by
  cases h with
  | same | tick | restart | handshake => exact .inl hg
  | detach hrun hcount => exact .inr ⟨hrun, hcount⟩
  | stop | resume | attach | lose | back => cases hg

theorem Move.detachedHoldsNone {s t : State} (h : Move s t) (hs : s.DetachedHoldsNone) : t.DetachedHoldsNone := by
  intro p hp
  rcases h.count p with hle | ⟨hguard, hattached, -⟩
  · have hnone : s.countOf p = 0 := ((h.guard p).detached hp).elim (hs p) And.right
    exact Nat.le_zero.1 (hle.trans_eq hnone)
  · have hsame : s.armState p = .detached := (congrArg Guard.state hguard).symm.trans hp
    rw [hsame] at hattached
    simp at hattached

theorem detachedHoldsNone_of_free {s : State} (h : ∀ k, s.body k = .free) : s.DetachedHoldsNone :=
  fun p _ => countOf_of_free h p

theorem SourceChange.armState {s u : State} (h : SourceChange s u) (p : Arm) : u.armState p = s.armState p :=
  congrArg Guard.state (h.guard p)

theorem SourceChange.detachedHoldsNone {s u : State} (h : SourceChange s u) (hs : s.DetachedHoldsNone) :
    u.DetachedHoldsNone := by
  intro p hp
  rw [h.armState] at hp
  rw [h.countOf]
  exact hs p hp

theorem Happens.detachedHoldsNone {s t : State} (h : Happens s t) (hs : s.DetachedHoldsNone) :
    t.DetachedHoldsNone := by
  cases h with
  | move h => exact h.detachedHoldsNone hs
  | sources h => exact (moves_afterSources s _).keeps (fun h => h.detachedHoldsNone) (h.detachedHoldsNone hs)
  | timing | map | run => exact hs
  | config => exact detachedHoldsNone_of_free (body_enterConfig s)
  | reset => exact detachedHoldsNone_of_free (body_endReset s)

/-! ### Valid records -/

/-- A valid report record stays valid in a move (R103). -/
theorem RecordMove.last_isSome {s : State} {p : Arm} {r : ReportRecord} (h : RecordMove s p r)
    (hs : (s.record p).last.isSome = true) : r.last.isSome = true := by
  cases h with
  | same | forced | stale => exact hs
  | judged => rw [Option.isSome_map]; exact hs
  | report _ _ h => exact h

/-- An arm leaves DETACHED with a valid record (R123). -/
theorem GuardMove.attached {s : State} {p : Arm} {g : Guard} (h : GuardMove s p g) (hg : g.state ≠ .detached) :
    s.armState p ≠ .detached ∨ (s.record p).last.isSome = true := by
  cases h with
  | same | tick | restart | handshake => exact .inl hg
  | stop _ _ hs | lose hs => exact .inl fun hd => by rw [hd] at hs; simp at hs
  | resume hs | detach hs | back hs => exact .inl fun hd => by rw [hd] at hs; cases hs
  | attach _ _ hf =>
    simp only [State.attachFits, Bool.and_eq_true] at hf
    obtain ⟨⟨-, hlast⟩, -⟩ := hf
    cases hl : (s.record p).last with
    | none => rw [hl] at hlast; cases hlast
    | some l => exact .inr rfl

theorem Move.recordsValid {s t : State} (h : Move s t) (hs : s.RecordsValid) : t.RecordsValid := by
  intro p hp
  refine (h.record p).last_isSome ?_
  rcases hp with hcount | hattached
  · rcases h.count p with hle | ⟨-, hactive, -⟩
    · exact hs p (.inl fun hzero => hcount (Nat.le_zero.1 (hle.trans_eq hzero)))
    · refine hs p (.inr fun hd => ?_)
      rw [hd] at hactive
      simp at hactive
  · exact ((h.guard p).attached hattached).elim (fun hd => hs p (.inr hd)) id

theorem recordsValid_of_quiet {s : State} (hfree : ∀ k, s.body k = .free) (hreset : ∀ p, s.guard p = Guard.reset) :
    s.RecordsValid := by
  rintro p (hcount | hattached)
  · exact absurd (countOf_of_free hfree p) hcount
  · exact absurd (congrArg Guard.state (hreset p)) hattached

theorem SourceChange.recordsValid {s u : State} (h : SourceChange s u) (hs : s.RecordsValid) : u.RecordsValid := by
  obtain ⟨-, -, -, hrecords, -⟩ := h.fields
  intro p hp
  rw [h.countOf, h.armState] at hp
  have hrecord : u.record p = s.record p := congrArg (·.get p) hrecords
  rw [hrecord]
  exact hs p hp

theorem Happens.recordsValid {s t : State} (h : Happens s t) (hs : s.RecordsValid) : t.RecordsValid := by
  cases h with
  | move h => exact h.recordsValid hs
  | sources h => exact (moves_afterSources s _).keeps (fun h => h.recordsValid) (h.recordsValid hs)
  | timing | map | run => exact hs
  | config => exact recordsValid_of_quiet (body_enterConfig s) (guard_enterConfig s)
  | reset => exact recordsValid_of_quiet (body_endReset s) (guard_endReset s)

/-- Settles O55: each thing that happens keeps the counts within the quotas, DETACHED arms without a claim, and the
records of the others valid. -/
theorem stepKeepsCounts : Obligations.StepKeepsCounts := by
  intro s t h
  have htakes := step_takes h
  refine ⟨fun hquiet hquota => ?_, htakes.keeps fun h => h.detachedHoldsNone,
    fun _ => htakes.keeps fun h => h.recordsValid⟩
  have hboth := htakes.keeps (P := fun u => u.ConfigQuiet ∧ u.WithinQuota)
    (fun h ⟨hq, hw⟩ => ⟨h.configQuiet hq, h.withinQuota hq hw⟩) ⟨hquiet, hquota⟩
  exact hboth.2

end Sys2Proof.Machine
end

section
/-! PROOFS. The end of a reset and the laws that the state after it has (R46, R104, R121, R163, R173, R197): O4 and
O5. -/

namespace Sys2Proof.Machine

/-! ### The laws of a state without claims, reports and running arms -/

theorem live_ne_of_free {s : State} (h : ∀ k, s.body k = .free) (k : Fin 24) (c : ClaimData) :
    (s.body k).live ≠ some c := by
  rw [h k]
  exact nofun

theorem liveApart_of_free {s : State} (h : ∀ k, s.body k = .free) : s.LiveApart := fun j _ c _ hc =>
  absurd hc (live_ne_of_free h j c)

theorem waitListExact_of_free {s : State} (h : ∀ k, s.body k = .free) (hw : s.waitList = []) : s.WaitListExact := by
  refine ⟨hw ▸ .nil, fun k => ?_, fun j _ c _ hc => ?_, hw ▸ .nil⟩
  · rw [h k, hw]
    exact ⟨nofun, nofun⟩
  · rw [h j] at hc
    cases hc

theorem blockersExact_of_free {s : State} (h : ∀ k, s.body k = .free) : s.BlockersExact := fun k c left bl hb => by
  rw [h k] at hb
  cases hb

theorem verdictsKept_of_invalid {s : State} (h : ∀ p, (s.record p).last = none) : s.VerdictsKept := fun p l _ hl => by
  rw [h p] at hl
  cases hl

theorem placesEntered_of_invalid {s : State} (h : ∀ p, (s.record p).last = none) : s.PlacesEntered :=
  fun p l b _ hl => by
    rw [h p] at hl
    cases hl

theorem armState_ne_run_of_reset {s : State} (h : ∀ p, s.guard p = Guard.reset) (p : Arm) : s.armState p ≠ .run := by
  unfold State.armState
  rw [h p]
  exact nofun

/-! ### The end of a reset -/

theorem last_endReset (s : State) (p : Arm) : (s.endReset.record p).last = none := by cases p <;> rfl

/-- A reset ends in a state with every law, whatever stood before. -/
theorem sound_endReset (s : State) : s.endReset.Sound where
  settings := endReset_settings s
  queues p := by cases p <;> exact Nat.zero_le _
  counters :=
    ⟨fun p => by cases p <;> exact Nat.zero_le _, Nat.zero_le _, fun p => by cases p <;> exact Nat.zero_le _,
      fun p => by cases p <;> exact Nat.zero_le _⟩
  map := reset_map_wf
  quiet := configQuiet_endReset s
  guards := guardsFit_of_reset (guard_endReset s)
  boxes k c hc := by rw [body_endReset] at hc; cases hc
  quota := withinQuota_of_free (body_endReset s)
  apart := liveApart_of_free (body_endReset s)
  waitList := waitListExact_of_free (body_endReset s) rfl
  blockers := blockersExact_of_free (body_endReset s)
  granted := grantedClear_of_free (body_endReset s)
  detached := detachedHoldsNone_of_free (body_endReset s)
  estop := estopHolds_of_reset (guard_endReset s)
  verdicts := verdictsKept_of_invalid (last_endReset s)
  clear p hp := absurd hp (armState_ne_run_of_reset (guard_endReset s) p)
  parts p l hl := by rw [last_endReset] at hl; cases hl
  timers := timersBounded_endReset s
  filters := filtersFit_endReset s
  records := recordsValid_of_quiet (body_endReset s) (guard_endReset s)
  replies := ⟨fun p => by cases p <;> exact trivial, trivial⟩
  permits p hp := absurd hp (armState_ne_run_of_reset (guard_endReset s) p)
  held p _ hp := absurd hp (armState_ne_run_of_reset (guard_endReset s) p)
  entered := placesEntered_of_invalid (last_endReset s)

/-- A reset of the state after reset changes nothing. -/
theorem endReset_reset : State.reset.endReset = State.reset := by decide +kernel

/-- Settles O5: the state after reset is one that a reset ends in. -/
theorem resetIsSound : Obligations.ResetIsSound := by
  unfold Obligations.ResetIsSound
  rw [← endReset_reset]
  exact sound_endReset _

theorem estopActive_endReset (s : State) : s.endReset.estopActive = false :=
  List.any_eq_false.2 fun n _ => by rw [line_endReset]; simp [Line.resetAt]

theorem groupActive_endReset (s : State) (g : Group) : s.endReset.groupActive g = false := by
  have hline : s.endReset.groupLineActive g = false :=
    List.any_eq_false.2 fun n _ => by rw [line_endReset]; simp [Line.resetAt]
  unfold State.groupActive
  rw [hline]
  cases g <;> rfl

/-- The level flag CONFIG alone is set after a reset (R187, R198). -/
theorem flagsWord_endReset (s : State) : s.endReset.flagsWord = 0x8000 := by
  have hgroups : s.endReset.anyGroupActive = false := List.any_eq_false.2 fun g _ => by simp [groupActive_endReset]
  unfold State.flagsWord
  rw [estopActive_endReset, hgroups]
  show BitVec.ofBoolListLE (List.replicate 15 false ++ [true]) = 0x8000
  decide

/-- ALERT is released after a reset, its one set flag masked (R199). -/
theorem alertLow_endReset (s : State) : s.endReset.alertLow = false := by
  unfold State.alertLow
  rw [flagsWord_endReset]
  show (true && (0x8000 : Half) &&& ~~~0xFFF0 != 0) = false
  decide

theorem resetEvent_ends {s : State} {i : Instr}
    (h : (i = .resetnRelease ∧ s.supplyLow = false) ∨ (i = .powerOnReset ∧ s.resetnLow = false)) :
    exec i s = .next s.endReset := by
  rcases h with ⟨rfl, h⟩ | ⟨rfl, h⟩
  · exact congrArg Host.Outcome.next (if_neg (by rw [h]; decide))
  · exact congrArg Host.Outcome.next (if_neg (by rw [h]; decide))

/-- Settles O4: a rise while the other line is low changes its own line alone, and the last of the two ends the
reset. -/
theorem resetEnds : Obligations.ResetEnds := by
  intro s
  refine ⟨fun h => congrArg Host.Outcome.next (if_pos h), fun h => ?_, fun i hi => ?_⟩
  · exact ⟨_, congrArg Host.Outcome.next (if_pos h), rfl, fun p => by cases p <;> rfl, rfl, rfl⟩
  · refine ⟨_, resetEvent_ends hi, rfl, rfl, fun p => ?_, rfl, rfl, rfl, rfl, fun k => ?_, rfl, rfl, rfl,
      line_endReset s, rfl, flagsWord_endReset s, alertLow_endReset s, rfl⟩
    · cases p <;>
        exact ⟨rfl, rfl, rfl, rfl, rfl, rfl, rfl, rfl, rfl, rfl, rfl, rfl, rfl, rfl, rfl, rfl, rfl⟩
    · simp [State.endReset, State.reset, State.slot, Slot.reset]

end Sys2Proof.Machine
end

section
/-! PROOFS. SET_MODE CONFIG, the teardown of the RUN period (R47, R104, R121, R183, R189): O32. -/

namespace Sys2Proof.Machine

theorem exec_setModeConfig {s : State} (hr : s.inReset = false) {a : CellAnswer} (ha : enterConfigOwner s = a) :
    exec .setModeConfig s = .next (a.state.replyCell 0x02 a.result a.clamped a.data) :=
  ha ▸ takeCellFrame_next hr 0x02 (setModeOwner 0)

theorem enterConfigOwner_config {s : State} (hm : s.mode = .config) : enterConfigOwner s = okCell s := if_pos hm

theorem enterConfigOwner_running {s : State} (hm : s.mode = .run) (h : ∃ p, s.armState p = .run) :
    enterConfigOwner s = refuseCell s .refusedState := by
  have harms : s.armState .a = .run ∨ s.armState .b = .run := by
    obtain ⟨p, hp⟩ := h
    cases p
    · exact .inl hp
    · exact .inr hp
  unfold enterConfigOwner
  rw [if_neg (by rw [hm]; exact nofun), if_pos harms]

theorem enterConfigOwner_halted {s : State} (hm : s.mode = .run) (h : ∀ p, s.armState p ≠ .run) :
    enterConfigOwner s = okCell s.enterConfig := by
  unfold enterConfigOwner
  rw [if_neg (by rw [hm]; exact nofun), if_neg fun harms => harms.elim (h .a) (h .b)]

theorem link_enterConfig (s : State) (p : Arm) :
    s.enterConfig.link p = { s.link p with queue := [], noticeLost := false } := by
  cases p <;> rfl

theorem record_enterConfig (s : State) (p : Arm) :
    s.enterConfig.record p = { requested := .full, forced := (s.record p).forced, inUse := .full, pending := false,
                               last := none, fresh := false } := by
  cases p <;> rfl

/-- Entry to CONFIG keeps every block that R189 does not name. -/
theorem frame_enterConfig (s : State) :
    { s.enterConfig with mode := s.mode, waitList := s.waitList, slots := s.slots, links := s.links, guards := s.guards,
                         records := s.records } = s := by
  unfold State.enterConfig State.tearDown
  rfl

/-- Settles O32: already in CONFIG, an arm in RUN, and the entry. -/
theorem setModeConfigTearsDown : Obligations.SetModeConfigTearsDown := by
  refine fun s hr => ⟨fun hm => exec_setModeConfig hr (enterConfigOwner_config hm),
    fun hm harms => exec_setModeConfig hr (enterConfigOwner_running hm harms), fun hm harms => ?_⟩
  exact ⟨s.enterConfig, exec_setModeConfig hr (enterConfigOwner_halted hm harms), rfl, rfl, slot_enterConfig s,
    fun p => ⟨link_enterConfig s p, guard_enterConfig s p, record_enterConfig s p⟩, frame_enterConfig s⟩

end Sys2Proof.Machine
end

section
/-! PROOFS. The handle checks of RELEASE, CANCEL and QUERY, and the answers of QUERY and LIST (R35, R39, R42 to R45):
O25 and O27. -/

namespace Sys2Proof.Machine

/-- An arm request past the two gates, by its owner's answer. -/
theorem takeArmFrame_gated {s : State} {p : Arm} {owner : State → Answer} {a : Answer} (hr : s.inReset = false)
    (hm : s.mode = .run) (hl : s.armState p ≠ .lost) (ha : owner s = a) (kind : Byte) :
    takeArmFrame p kind (gateRequest p owner) s = .next (a.state.replyArm p kind a.result a.data) := by
  rw [takeArmFrame_next hr, gateRequest_pass hm p hl, ha]

/-! ### Handles -/

theorem withHandle_stale {s : State} {slot gen : Byte} (h : ∀ k, ¬ HandleNames s slot gen k) (p : Arm)
    (act : Fin 24 → ClaimData → Answer) : withHandle p slot gen s act = refuse s .staleHandle := by
  have hnone : s.findHandle slot gen = none := Option.eq_none_iff_forall_ne_some.2 fun k hk =>
    h k ((findHandle_eq_some s slot gen k).1 hk)
  unfold withHandle
  rw [hnone]

theorem withHandle_named {s : State} {slot gen : Byte} {k : Fin 24} {c : ClaimData} (h : HandleNames s slot gen k)
    (hc : (s.body k).claim = some c) (p : Arm) (act : Fin 24 → ClaimData → Answer) :
    withHandle p slot gen s act = if c.owner = p then act k c else refuse s .notOwner := by
  unfold withHandle
  rw [(findHandle_eq_some s slot gen k).2 h]
  simp only [hc]

theorem state_eq_waiting_iff (b : SlotBody) : b.state = .waiting ↔ b.waitingClaim.isSome = true := by
  cases b <;> simp [SlotBody.state, SlotBody.waitingClaim]

theorem releaseSlot_waiting {s : State} {k : Fin 24} (h : (s.body k).state = .waiting) (p : Arm) (c : ClaimData) :
    releaseSlot p s k c = refuse s .refusedState := by
  unfold releaseSlot
  cases hb : s.body k with
  | waiting => rfl
  | free | granted | occupied | releasing => rw [hb] at h; cases h

/-- Settles O25: what the handle names decides the answer, whichever of the three commands asks. -/
theorem handleChecks : Obligations.HandleChecks := by
  intro p slot gen s hr hm hl
  refine ⟨fun i kind hi => ?_, fun k c hk hc ho => ⟨fun hw => ?_, fun hw => ?_⟩⟩
  · have hexec : ∀ r, (∀ act, withHandle p slot gen s act = refuse s r) →
        exec i s = .next (s.replyArm p kind r .empty) := by
      intro r h
      simp only [List.mem_cons, Prod.mk.injEq, List.not_mem_nil, or_false] at hi
      rcases hi with ⟨rfl, rfl⟩ | ⟨rfl, rfl⟩ | ⟨rfl, rfl⟩
      · exact takeArmFrame_gated (owner := releaseOwner p slot gen) hr hm hl (h _) 0x05
      · exact takeArmFrame_gated (owner := cancelOwner p slot gen) hr hm hl (h _) 0x06
      · exact takeArmFrame_gated (owner := queryOwner p slot gen) hr hm hl (h _) 0x07
    exact ⟨fun hnone => hexec _ (withHandle_stale hnone p), fun k c hk hc ho => hexec _ fun act =>
      (withHandle_named hk hc p act).trans (if_neg ho)⟩
  · have howner : releaseOwner p slot gen s = refuse s .refusedState :=
      (withHandle_named hk hc p _).trans ((if_pos ho).trans (releaseSlot_waiting hw p c))
    exact takeArmFrame_gated hr hm hl howner 0x05
  · have howner : cancelOwner p slot gen s = refuse s .refusedState :=
      (withHandle_named hk hc p _).trans ((if_pos ho).trans (if_neg fun h => hw ((state_eq_waiting_iff _).2 h)))
    exact takeArmFrame_gated hr hm hl howner 0x06

/-! ### QUERY -/

theorem tensOfMs_le_iff (ms n : Nat) : tensOfMs ms ≤ n ↔ ms ≤ 10 * n := by
  unfold tensOfMs
  omega

theorem queryOwner_named {s : State} {slot gen : Byte} {k : Fin 24} {c : ClaimData} {p : Arm}
    (h : HandleNames s slot gen k) (hc : (s.body k).claim = some c) (ho : c.owner = p) :
    queryOwner p slot gen s =
      { state := s, result := .ok, data := .query (s.body k).state c.cls (tensOfMs (s.body k).remaining) } :=
  (withHandle_named h hc p _).trans (if_pos ho)

/-! ### LIST -/

theorem pairwise_allSlots : allSlots.Pairwise (· < ·) := List.pairwise_lt_finRange 24

theorem pairwise_claimsOf (s : State) (p : Arm) : (s.claimsOf p).Pairwise (· < ·) := pairwise_allSlots.filter _

theorem holdsClaim_iff (s : State) (p : Arm) (k : Fin 24) :
    s.holdsClaim p k = true ↔ ∃ c, (s.body k).claim = some c ∧ c.owner = p := ownedBy_iff p _

theorem mem_claimsOf (s : State) (p : Arm) (k : Fin 24) :
    k ∈ s.claimsOf p ↔ ∃ c, (s.body k).claim = some c ∧ c.owner = p := by
  rw [← holdsClaim_iff]
  simp [State.claimsOf]

theorem length_listEntries (s : State) (p : Arm) (start : Nat) :
    (s.listEntries p start).length = min 4 (s.countOf p - start) := by
  simp [State.listEntries, State.countOf]

/-- The entries of a LIST reply are the arm's claims from the start index on (R44). -/
theorem listEntries_getElem? {s : State} {p : Arm} {start n : Nat} {e : ListEntry}
    (h : (s.listEntries p start)[n]? = some e) :
    ∃ k, (s.claimsOf p)[start + n]? = some k ∧ e.slot = k ∧ e.state = (s.body k).state ∧ e.gen = (s.slot k).gen := by
  unfold State.listEntries at h
  rw [List.getElem?_map, Option.map_eq_some_iff] at h
  obtain ⟨k, hk, rfl⟩ := h
  refine ⟨k, ?_, rfl, rfl, rfl⟩
  rw [List.getElem?_take] at hk
  split at hk
  · rwa [List.getElem?_drop] at hk
  · cases hk

/-- Settles O27: QUERY by its claim's body, LIST by the arm's claims in slot order. -/
theorem queryAndList : Obligations.QueryAndList := by
  refine ⟨fun b => ?_, fun p s hr hm hl => ⟨fun slot gen k c hk hc ho => ?_, fun start => ?_⟩⟩
  · exact ⟨fun h => h ▸ ⟨rfl, rfl⟩, fun _ _ _ h => h ▸ ⟨rfl, rfl⟩, fun _ _ h => h ▸ ⟨rfl, rfl⟩,
      fun _ h => h ▸ ⟨rfl, rfl⟩, fun _ h => h ▸ ⟨rfl, rfl⟩⟩
  · exact ⟨_, takeArmFrame_gated hr hm hl (queryOwner_named hk hc ho) 0x07, tensOfMs_le_iff _⟩
  · refine ⟨s.claimsOf p, s.listEntries p start.toNat, takeArmFrame_gated hr hm hl rfl 0x08, pairwise_claimsOf s p,
      mem_claimsOf s p, ?_, ?_, fun n e => listEntries_getElem?⟩
    · rw [length_listEntries]
      omega
    · rw [length_listEntries]
      show _ → s.countOf p ≤ _
      omega

end Sys2Proof.Machine
end

section
/-! PROOFS. CLAIM: its checks, WAIT_BUSY and CYCLE, and the claim that is kept (R29, R34, R35, R49 to R67): O23 and
O24. -/

namespace Sys2Proof.Machine

/-! ### The claims of an arm -/

theorem claimsHeld_iff (s : State) (p : Arm) (k : Fin 24) :
    s.holdsClaim p k = true ↔ ∃ c, (LiveAt s k c ∨ WaitingAt s k c) ∧ c.owner = p := by
  rw [holdsClaim_iff]
  simp only [claim_eq_some_iff]

theorem liveHeld_iff (s : State) (p : Arm) (k : Fin 24) :
    s.holdsLive p k = true ↔ ∃ c, LiveAt s k c ∧ c.owner = p := by
  rw [holdsLive_iff]
  simp only [live_eq_some_iff]

theorem waitHeld_iff (s : State) (p : Arm) (k : Fin 24) :
    s.holdsWaiting p k = true ↔ ∃ c, WaitingAt s k c ∧ c.owner = p := by
  unfold State.holdsWaiting
  rw [ownedBy_iff]
  simp only [waitingClaim_eq_some_iff]

theorem hasWaiting_iff (s : State) (p : Arm) : s.hasWaiting p = true ↔ ∃ k c, WaitingAt s k c ∧ c.owner = p := by
  unfold State.hasWaiting
  simp [waitHeld_iff]

/-! ### The checks of CLAIM -/

theorem classOf_eq_none {b : Byte} (h : 1 < b.toNat) : classOf b = none := by
  unfold classOf
  split
  · omega
  · omega
  · rfl

theorem classOf_eq_some_iff (b : Byte) (c : ClaimClass) : classOf b = some c ↔ b.toNat = c.code := by
  unfold classOf
  split
  · next h => rw [h]; cases c <;> decide
  · next h => rw [h]; cases c <;> decide
  · next h0 h1 =>
    cases c
    · exact ⟨nofun, fun h => (h0 h).elim⟩
    · exact ⟨nofun, fun h => (h1 h).elim⟩

theorem exists_class {b : Byte} (h : b.toNat ≤ 1) : ∃ c, classOf b = some c := by
  simp only [classOf_eq_some_iff]
  have hcases : b.toNat = 0 ∨ b.toNat = 1 := by omega
  exact hcases.elim (fun h => ⟨.normal, h⟩) fun h => ⟨.urgent, h⟩

theorem checkBox_eq_none_iff (b : Box) : checkBox b = none ↔ b.wellFormed = false ∨ b.binCut = none := by
  unfold checkBox
  cases b.wellFormed <;> simp

theorem checkBox_eq_some {b c : Box} (hw : b.wellFormed = true) (hc : b.binCut = some c) : checkBox b = some c :=
  (if_pos hw).trans hc

theorem firstFree_eq_none_iff (s : State) : s.firstFree = none ↔ ∀ k, s.body k ≠ .free := by
  unfold State.firstFree
  rw [List.find?_eq_none]
  simp [isFree_iff]

section
variable {s : State} {p : Arm} {cls : Byte} {raw : RawBox}

theorem claimOwner_unattached (h : s.armState p = .detached ∨ s.armState p = .lost) :
    claimOwner p cls raw s = refuse s .refusedState := by
  refine if_pos ?_
  rcases h with h | h <;> rw [h] <;> decide

theorem passes_armCheck (h : s.armState p = .run ∨ s.armState p = .stopped) :
    ¬ (s.armState p ≠ .run ∧ s.armState p ≠ .stopped) := by
  tauto

theorem claimOwner_badClass (h : s.armState p = .run ∨ s.armState p = .stopped) (hc : 1 < cls.toNat) :
    claimOwner p cls raw s = refuse s .badArg := by
  unfold claimOwner
  rw [if_neg (passes_armCheck h), classOf_eq_none hc]

theorem claimOwner_badBox (h : s.armState p = .run ∨ s.armState p = .stopped) (hc : cls.toNat ≤ 1)
    (hb : (boxOf raw).wellFormed = false ∨ (boxOf raw).binCut = none) :
    claimOwner p cls raw s = refuse s .badBox := by
  obtain ⟨c, hc⟩ := exists_class hc
  unfold claimOwner
  rw [if_neg (passes_armCheck h), hc, (checkBox_eq_none_iff _).2 hb]

theorem claimOwner_quota {b : Box} (h : s.armState p = .run ∨ s.armState p = .stopped) (hc : cls.toNat ≤ 1)
    (hw : (boxOf raw).wellFormed = true) (hb : (boxOf raw).binCut = some b)
    (hq : s.timing.quota.get p ≤ s.countOf p) : claimOwner p cls raw s = refuse s .quota := by
  obtain ⟨c, hc⟩ := exists_class hc
  unfold claimOwner
  rw [if_neg (passes_armCheck h), hc, checkBox_eq_some hw hb]
  exact if_pos hq

theorem claimOwner_noSlot {b : Box} (h : s.armState p = .run ∨ s.armState p = .stopped) (hc : cls.toNat ≤ 1)
    (hw : (boxOf raw).wellFormed = true) (hb : (boxOf raw).binCut = some b)
    (hq : s.countOf p < s.timing.quota.get p) (hk : ∀ k, s.body k ≠ .free) :
    claimOwner p cls raw s = refuse s .noSlot := by
  obtain ⟨c, hc⟩ := exists_class hc
  unfold claimOwner
  rw [if_neg (passes_armCheck h), hc, checkBox_eq_some hw hb, (firstFree_eq_none_iff s).2 hk]
  exact if_neg (Nat.not_le_of_lt hq)

/-- A request that passes the six checks is decided on the lowest FREE slot (R49, R52). -/
theorem claimOwner_admitted {c : ClaimData} {k : Fin 24} (h : Admitted s p cls raw c k) :
    claimOwner p cls raw s = decideClaim s k c := by
  obtain ⟨harm, howner, hcls, hsent, hbox, hquota, hfree, hlowest⟩ := h
  subst howner
  unfold claimOwner
  rw [if_neg (passes_armCheck harm), (classOf_eq_some_iff cls c.cls).2 hcls, checkBox_eq_some hsent hbox,
    (firstFree_eq_some_iff s k).2 ⟨hfree, hlowest⟩]
  exact if_neg (Nat.not_le_of_lt hquota)

end

/-! ### The decision -/

section
variable {s : State} {k : Fin 24} {c : ClaimData}

theorem decideClaim_unblocked (h : (s.screen c.owner c.box (s.aheadOfNew c.cls)).isEmpty = true) :
    decideClaim s k c = { state := s.keepGranted k c, result := .granted, data := .handle k (s.slot k).gen } := if_pos h

theorem decideClaim_blocked (h : (s.screen c.owner c.box (s.aheadOfNew c.cls)).isEmpty = false) :
    decideClaim s k c =
      let bl := s.screen c.owner c.box (s.aheadOfNew c.cls)
      if s.hasWaiting c.owner then refuse s .waitBusy
      else if s.cycleHolds c.owner bl then refuse s .cycle
      else { state := s.keepWaiting k c bl, result := .waiting, data := .handle k (s.slot k).gen } :=
  if_neg (by rw [h]; decide)

end

theorem cycleHolds_iff (s : State) (p : Arm) (bl : Blockers) : s.cycleHolds p bl = true ↔ CycleStands s p bl := by
  unfold State.cycleHolds CycleStands
  rw [Bool.and_eq_true, List.any_eq_true]
  refine and_congr (by simp) ⟨fun ⟨j, _, hj⟩ => ?_, fun ⟨j, w, left, wb, i, hb, ho, hi, hl⟩ => ⟨j, mem_allSlots j, ?_⟩⟩
  · split at hj
    · next w left wb hb =>
      rw [Bool.and_eq_true, beq_iff_eq, List.any_eq_true] at hj
      obtain ⟨ho, i, hi, hl⟩ := hj
      exact ⟨j, w, left, wb, i, hb, ho, hi, hl⟩
    · cases hj
  · rw [hb]
    simp only [Bool.and_eq_true, beq_iff_eq, List.any_eq_true]
    exact ⟨ho, i, hi, hl⟩

theorem exec_claim {s : State} {p : Arm} {cls : Byte} {raw : RawBox} {a : Answer} (hr : s.inReset = false)
    (hm : s.mode = .run) (hl : s.armState p ≠ .lost) (ha : claimOwner p cls raw s = a) :
    exec (.claim p cls raw) s = .next (a.state.replyArm p 0x04 a.result a.data) :=
  takeArmFrame_gated hr hm hl ha 0x04

/-- Every arm request is answered REFUSED_STATE for a LOST arm; CLAIM also for a DETACHED one (R49, R177). -/
theorem exec_claim_unattached {s : State} {p : Arm} (hr : s.inReset = false) (hm : s.mode = .run)
    (h : s.armState p = .detached ∨ s.armState p = .lost) (cls : Byte) (raw : RawBox) :
    exec (.claim p cls raw) s = .next (s.replyArm p 0x04 .refusedState .empty) := by
  by_cases hl : s.armState p = .lost
  · have hgate := gateRequest_lost hm p hl (claimOwner p cls raw)
    show takeArmFrame p 0x04 (gateRequest p (claimOwner p cls raw)) s = _
    rw [takeArmFrame_next hr, hgate]
    rfl
  · exact exec_claim hr hm hl (claimOwner_unattached h)

theorem ne_lost_of_attached {x : ArmState} (h : x = .run ∨ x = .stopped) : x ≠ .lost := by
  rcases h with rfl | rfl <;> decide

/-- Settles O23: each check turns the request away in its place, and so do WAIT_BUSY and CYCLE behind them. -/
theorem claimTurnedAway : Obligations.ClaimTurnedAway := by
  refine ⟨⟨rfl, rfl, fun s k c => ⟨live_eq_some_iff s k c, waitingClaim_eq_some_iff s k c, claim_eq_some_iff s k c⟩⟩,
    fun s p => ⟨⟨s.claimsOf p, pairwise_claimsOf s p, rfl, fun k => ?_⟩, hasWaiting_iff s p,
      fun k => ⟨liveHeld_iff s p k, waitHeld_iff s p k, claimsHeld_iff s p k⟩, fun b => ?_⟩,
    fun p cls raw s hr hm => ⟨fun h => exec_claim_unattached hr hm h cls raw, fun ha => ?_, fun c k hadm => ?_⟩⟩
  · rw [mem_claimsOf]
    simp only [claim_eq_some_iff]
  · rw [liveClaimContains_iff]
    simp only [live_eq_some_iff]
  · have hl := ne_lost_of_attached ha
    exact ⟨fun hc => exec_claim hr hm hl (claimOwner_badClass ha hc), fun hc =>
      ⟨fun hb => exec_claim hr hm hl (claimOwner_badBox ha hc hb), fun b hw hb =>
        ⟨fun hq => exec_claim hr hm hl (claimOwner_quota ha hc hw hb hq),
          fun hq hk => exec_claim hr hm hl (claimOwner_noSlot ha hc hw hb hq hk)⟩⟩⟩
  · intro bl hbl
    have hl := ne_lost_of_attached hadm.arm
    obtain rfl := hadm.owner
    have howner := (claimOwner_admitted hadm).trans (decideClaim_blocked hbl)
    exact ⟨fun hw => exec_claim hr hm hl (howner.trans (if_pos hw)), fun hw hcycle =>
      exec_claim hr hm hl
        (howner.trans ((if_neg (by rw [hw]; decide)).trans (if_pos ((cycleHolds_iff _ _ _).2 hcycle))))⟩

end Sys2Proof.Machine
end

section
/-! PROOFS. The claim that CLAIM keeps, GRANTED or WAITING, and what screening finds (R34, R52 to R60, R67): O24. -/

namespace Sys2Proof.Machine

/-! ### Blocker sets and screening -/

theorem blockers_isEmpty_iff (bl : Blockers) : bl.isEmpty = true ↔ bl.slots = [] ∧ bl.groups = [] := by
  simp [Blockers.isEmpty]

theorem mem_addSlot (bl : Blockers) (k j : Fin 24) : j ∈ (bl.addSlot k).slots ↔ j ∈ bl.slots ∨ j = k := by
  simp [Blockers.addSlot]

theorem pairwise_addSlot (bl : Blockers) (k : Fin 24) : (bl.addSlot k).slots.Pairwise (· < ·) :=
  pairwise_allSlots.filter fun j => bl.slots.contains j || j == k

theorem mem_addGroup (bl : Blockers) (g h : Group) : h ∈ (bl.addGroup g).groups ↔ h ∈ bl.groups ∨ h = g := by
  simp [Blockers.addGroup]

theorem nodup_addGroup (bl : Blockers) (g : Group) : (bl.addGroup g).groups.Nodup :=
  List.Nodup.filter _ (by decide)

theorem aheadOfNew_iff (s : State) (cls : ClaimClass) (k : Fin 24) :
    s.aheadOfNew cls k = true ↔ ∃ c, WaitingAt s k c ∧ ¬ (cls = .urgent ∧ c.cls = .normal) := by
  unfold State.aheadOfNew
  simp only [← waitingClaim_eq_some_iff]
  cases (s.body k).waitingClaim <;> simp [Decidable.imp_iff_not_or]

theorem mem_screen_iff (s : State) (p : Arm) (box : Box) (ahead : Fin 24 → Bool) (k : Fin 24) :
    k ∈ (s.screen p box ahead).slots ↔
      ∃ c, (LiveAt s k c ∨ WaitingAt s k c ∧ ahead k = true) ∧ c.owner = p.other ∧
        c.box.conflicts s.timing.clearance box = true := by
  rw [mem_screen_slots, blocksCandidate_iff, ← exists_or]
  refine exists_congr fun c => ?_
  rw [live_eq_some_iff, waitingClaim_eq_some_iff]
  tauto

theorem mem_screen_groups (s : State) (p : Arm) (box : Box) (ahead : Fin 24 → Bool) (g : Group) :
    g ∈ (s.screen p box ahead).groups ↔ s.groupActive g = true ∧ s.keepOut.touchesGroup box g = true := by
  simp [State.screen, State.activeGroupsTouched]

/-! ### The claim that is kept -/

/-- A slot takes a claim of the arm, and the claim joins the blocker sets of the other arm's waits (R58). -/
theorem joinedAt_take (s : State) {p : Arm} {k : Fin 24} {b : SlotBody} (box : Box) (behind : Fin 24 → Bool)
    (w : List (Fin 24)) (hb : ∀ c left bl, b = .waiting c left bl → c.owner = p) :
    JoinedAt s ({ s.setBody k b with waitList := w }.joinBlockers p k box behind) p k box b behind where
  taken := by
    unfold State.joinBlockers
    rw [State.slot_mapBodies]
    have hslot : State.slot { s.setBody k b with waitList := w } k = { s.slot k with body := b } :=
      (State.slot_setBody s k k b).trans (if_pos rfl)
    have hbody : State.body { s.setBody k b with waitList := w } k = b := State.body_setBody_self s k b
    rw [hslot, hbody]
    split
    · next c left bl => rw [if_neg fun h => ne_other p ((hb c left bl rfl).symm.trans h.1)]
    · rfl
  others j hj := by
    unfold State.joinBlockers
    rw [State.slot_mapBodies]
    have hslot : State.slot { s.setBody k b with waitList := w } j = s.slot j :=
      (State.slot_setBody s k j b).trans (if_neg hj)
    have hbody : State.body { s.setBody k b with waitList := w } j = s.body j :=
      (State.body_setBody s k j b).trans (if_neg hj)
    rw [hslot, hbody]
    rfl

theorem keepGranted_joined (s : State) (k : Fin 24) (c : ClaimData) :
    JoinedAt s (s.keepGranted k c) c.owner k c.box (.granted c (10 * s.timing.entrySteps)) fun _ => true :=
  joinedAt_take s c.box _ s.waitList nofun

theorem keepGranted_frame (s : State) (k : Fin 24) (c : ClaimData) :
    { s.keepGranted k c with slots := s.slots } = s := by
  unfold State.keepGranted State.joinBlockers State.mapBodies State.setBody State.setSlot
  rfl

theorem keepWaiting_joined (s : State) (k : Fin 24) (c : ClaimData) (bl : Blockers) :
    JoinedAt s (s.keepWaiting k c bl) c.owner k c.box (.waiting c (10 * s.timing.waitSteps) bl)
      fun j => !s.aheadOfNew c.cls j :=
  joinedAt_take s c.box _ _ fun _ _ _ h => by cases h; rfl

theorem keepWaiting_frame (s : State) (k : Fin 24) (c : ClaimData) (bl : Blockers) :
    { s.keepWaiting k c bl with slots := s.slots, waitList := s.waitList } = s := by
  unfold State.keepWaiting State.joinBlockers State.mapBodies State.setBody State.setSlot
  rfl

/-- What is left of a list from its first failure of a test on fails it throughout, where no later entry passes behind
one that fails. -/
theorem dropWhile_fails {α : Type} {f : α → Bool} {l : List α} (h : l.Pairwise fun x y => f y = true → f x = true) :
    ∀ x ∈ l.dropWhile f, f x = false := by
  induction l with
  | nil => exact nofun
  | cons x xs ih =>
    rw [List.pairwise_cons] at h
    obtain ⟨hx, hxs⟩ := h
    rw [List.dropWhile_cons]
    split
    · exact ih hxs
    · next hfail =>
      intro y hy
      rw [Bool.eq_false_iff]
      rcases List.mem_cons.1 hy with rfl | hy
      · exact hfail
      · exact fun hpass => hfail (hx y hy hpass)

/-- The waits that stand ahead of a new request are the front of the wait list (R54, R57). -/
theorem pairwise_aheadOfNew {s : State} (hw : s.WaitListExact) (cls : ClaimClass) :
    s.waitList.Pairwise fun j k => s.aheadOfNew cls k = true → s.aheadOfNew cls j = true := by
  obtain ⟨-, hmem, -, hsorted⟩ := hw
  refine hsorted.imp_of_mem fun {j k} hj _ hjk hk => ?_
  obtain ⟨c, hc⟩ := Option.isSome_iff_exists.1 ((hmem j).1 hj)
  obtain ⟨d, hd, hahead⟩ := (aheadOfNew_iff s cls k).1 hk
  refine (aheadOfNew_iff s cls j).2 ⟨c, (waitingClaim_eq_some_iff s j c).1 hc, fun ⟨hurgent, hnormal⟩ => ?_⟩
  have hdcls : d.cls = .urgent := by
    cases hdc : d.cls
    · exact absurd ⟨hurgent, hdc⟩ hahead
    · rfl
  have hccls := hjk c d hc ((waitingClaim_eq_some_iff s k d).2 hd) hdcls
  rw [hnormal] at hccls
  cases hccls

/-- Settles O24: a request that nothing blocks is kept as GRANTED, and a blocked one behind the waits of its class. -/
theorem claimKept : Obligations.ClaimKept := by
  refine ⟨fun bl => ⟨blockers_isEmpty_iff bl, fun k => ⟨pairwise_addSlot bl k, rfl, mem_addSlot bl k⟩,
      fun g => ⟨nodup_addGroup bl g, rfl, mem_addGroup bl g⟩⟩, aheadOfNew_iff,
    fun s p box ahead => ⟨pairwise_allSlots.filter _, mem_screen_iff s p box ahead, mem_screen_groups s p box ahead,
      rfl, rfl⟩,
    fun p cls raw s c k hr hm hadm => ?_⟩
  have hl := ne_lost_of_attached hadm.arm
  have hdecide := claimOwner_admitted hadm
  obtain rfl := hadm.owner
  intro bl
  refine ⟨fun hbl => ?_, fun hbl hwait hcycle hw => ?_⟩
  · exact ⟨s.keepGranted k c, exec_claim hr hm hl (hdecide.trans (decideClaim_unblocked hbl)),
      keepGranted_joined s k c, keepGranted_frame s k c⟩
  · have hkept : decideClaim s k c =
        { state := s.keepWaiting k c bl, result := .waiting, data := .handle k (s.slot k).gen } :=
      (decideClaim_blocked hbl).trans ((if_neg (by rw [hwait]; decide)).trans
        (if_neg fun h => hcycle ((cycleHolds_iff _ _ _).1 h)))
    exact ⟨s.keepWaiting k c bl, s.waitList.takeWhile (s.aheadOfNew c.cls), s.waitList.dropWhile (s.aheadOfNew c.cls),
      exec_claim hr hm hl (hdecide.trans hkept), keepWaiting_joined s k c bl, List.takeWhile_append_dropWhile.symm, rfl,
      fun _ => List.mem_takeWhile_imp, dropWhile_fails (pairwise_aheadOfNew hw c.cls), keepWaiting_frame s k c bl⟩

end Sys2Proof.Machine
end

section
/-! PROOFS. What an accepted REPORT computes, records and answers, and what no report changes (R101, R103, R107, R112 to
R115, R119): O20. -/

namespace Sys2Proof.Machine

/-! ### The profile choice -/

theorem profileTarget_eq (forced : Option ProfileName) (request : ProfileName) :
    profileTarget forced request = forced.getD request := by cases forced <;> rfl

/-- REDUCED is used where it is the target and either in use already or fast enough left (R107). -/
theorem chooseProfile_used (inUse target : ProfileName) (v cap : Nat) :
    (chooseProfile inUse target v cap).1 =
      if target = .reduced ∧ (inUse = .reduced ∨ v ≤ cap) then .reduced else .full := by
  unfold chooseProfile
  cases target with
  | full => simp
  | reduced =>
    cases inUse with
    | reduced => simp
    | full => by_cases hv : v ≤ cap <;> simp [hv]

theorem chooseProfile_pending (inUse target : ProfileName) (v cap : Nat) :
    (chooseProfile inUse target v cap).2 = true ↔
      target = .reduced ∧ ¬ (target = .reduced ∧ (inUse = .reduced ∨ v ≤ cap)) := by
  unfold chooseProfile
  cases target with
  | full => simp
  | reduced =>
    cases inUse with
    | reduced => simp
    | full => by_cases hv : v ≤ cap <;> simp [hv]

theorem ProfilePair.get_ite (pair : ProfilePair) (c : Prop) [Decidable c] :
    pair.get (if c then .reduced else .full) = if c then pair.reduced else pair.full := by
  split <;> rfl

/-! ### The verdict -/

section
variable (s : State) (p : Arm) (part : Option Box) (v cap : Nat)

theorem formVerdict_outside_iff : (s.formVerdict p part v cap).place = .outside ↔ part = none := by
  cases part with
  | none => exact ⟨fun _ => rfl, fun _ => rfl⟩
  | some b =>
    unfold State.formVerdict
    dsimp only
    split <;> exact ⟨nofun, nofun⟩

theorem formVerdict_contained_iff :
    (s.formVerdict p part v cap).place = .contained ↔
      ∃ b k c, part = some b ∧ LiveAt s k c ∧ c.owner = p ∧ b.containedIn c.box = true := by
  cases part with
  | none => exact ⟨nofun, fun ⟨b, k, c, h, _⟩ => nomatch h⟩
  | some b =>
    have hplace : (s.formVerdict p (some b) v cap).place = .contained ↔ s.liveClaimContains p b = true := by
      unfold State.formVerdict
      dsimp only
      split
      · next h => simp [h]
      · next h => simp [h]
    rw [hplace, liveClaimContains_iff]
    simp only [live_eq_some_iff, Option.some.injEq]
    exact ⟨fun ⟨k, c, h⟩ => ⟨b, k, c, rfl, h⟩, fun ⟨_, k, c, hb, h⟩ => hb ▸ ⟨k, c, h⟩⟩

theorem formVerdict_intrusion_iff :
    (s.formVerdict p part v cap).intrusion = true ↔
      ∃ b g, part = some b ∧ s.groupActive g = true ∧ s.keepOut.touchesGroup b g = true := by
  show s.partIntrudes part = true ↔ _
  cases part with
  | none => exact ⟨nofun, fun ⟨_, _, h, _⟩ => nomatch h⟩
  | some b =>
    unfold State.partIntrudes State.activeGroupsTouched
    rw [Bool.not_eq_true', List.isEmpty_eq_false_iff_exists_mem]
    simp only [List.mem_filter, mem_allGroups, true_and, Bool.and_eq_true, Option.some.injEq]
    exact ⟨fun ⟨g, h⟩ => ⟨b, g, rfl, h⟩, fun ⟨_, g, hb, h⟩ => hb ▸ ⟨g, h⟩⟩

theorem formVerdict_overspeed_iff : (s.formVerdict p part v cap).overspeed = true ↔ cap < v := decide_eq_true_iff

end

/-! ### What a report leaves unchanged -/

/-- What no part of a report's taking changes (R101). -/
structure ReportFrame (s t : State) : Prop where
  mode : t.mode = s.mode
  cal : t.cal = s.cal
  profiles : t.profiles = s.profiles
  timing : t.timing = s.timing
  cell : t.cell = s.cell
  keepOut : t.keepOut = s.keepOut
  lines : t.lines = s.lines
  resetnLow : t.resetnLow = s.resetnLow
  supplyLow : t.supplyLow = s.supplyLow
  mask : t.events.mask = s.events.mask
  waitMs : t.events.waitMs = s.events.waitMs
  haltMs : t.events.haltMs = s.events.haltMs

theorem ReportFrame.refl (s : State) : ReportFrame s s :=
  ⟨rfl, rfl, rfl, rfl, rfl, rfl, rfl, rfl, rfl, rfl, rfl, rfl⟩

theorem ReportFrame.trans {s t u : State} (h : ReportFrame s t) (h' : ReportFrame t u) : ReportFrame s u where
  mode := h'.mode.trans h.mode
  cal := h'.cal.trans h.cal
  profiles := h'.profiles.trans h.profiles
  timing := h'.timing.trans h.timing
  cell := h'.cell.trans h.cell
  keepOut := h'.keepOut.trans h.keepOut
  lines := h'.lines.trans h.lines
  resetnLow := h'.resetnLow.trans h.resetnLow
  supplyLow := h'.supplyLow.trans h.supplyLow
  mask := h'.mask.trans h.mask
  waitMs := h'.waitMs.trans h.waitMs
  haltMs := h'.haltMs.trans h.haltMs

theorem TableFrame.reportFrame {s t : State} (h : TableFrame s t) : ReportFrame s t :=
  ⟨h.mode, h.cal, h.profiles, h.timing, h.cell, h.keepOut, h.lines, h.resetnLow, h.supplyLow, h.mask, h.waitMs,
    h.haltMs⟩

theorem returnFromLost_frame (s : State) (p : Arm) : ReportFrame s (s.returnFromLost p) := by
  unfold State.returnFromLost
  dsimp only
  split
  · exact ⟨rfl, rfl, rfl, rfl, rfl, rfl, rfl, rfl, rfl, rfl, rfl, rfl⟩
  · exact .refl s

theorem resumeCheck_frame (s : State) (p : Arm) : ReportFrame s (s.resumeCheck p) := by
  unfold State.resumeCheck
  dsimp only
  split
  · exact ⟨rfl, rfl, rfl, rfl, rfl, rfl, rfl, rfl, rfl, rfl, rfl, rfl⟩
  · exact .refl s

theorem startReportTimer_frame (s : State) (p : Arm) : ReportFrame s (s.startReportTimer p) :=
  ⟨rfl, rfl, rfl, rfl, rfl, rfl, rfl, rfl, rfl, rfl, rfl, rfl⟩

theorem enterStopped_frame (s : State) (p : Arm) (causes : List StopCause) : ReportFrame s (s.enterStopped p causes) :=
  ⟨rfl, rfl, rfl, rfl, rfl, rfl, rfl, rfl, rfl, rfl, rfl, rfl⟩

theorem takeVerdict_frame (s : State) (p : Arm) (v : Verdict) : ReportFrame s (s.takeVerdict p v) := by
  have htimer := startReportTimer_frame s p
  unfold State.takeVerdict
  cases s.armState p with
  | detached | lost => exact .refl s
  | stopped => exact htimer.trans (resumeCheck_frame _ p)
  | run =>
    dsimp only
    split
    · exact htimer
    · exact htimer.trans (enterStopped_frame _ p _)

theorem recordReport_frame (s : State) (p : Arm) (request : ProfileName) (e : Envelope) :
    ReportFrame s (s.recordReport p request e) :=
  ⟨rfl, rfl, rfl, rfl, rfl, rfl, rfl, rfl, rfl, rfl, rfl, rfl⟩

theorem markEntry_frame (s : State) (p : Arm) (part : Option Box) : ReportFrame s (s.markEntry p part) := by
  unfold State.markEntry State.mapBodies
  exact ⟨rfl, rfl, rfl, rfl, rfl, rfl, rfl, rfl, rfl, rfl, rfl, rfl⟩

theorem markExit_frame (s : State) (p : Arm) (part : Option Box) : ReportFrame s (s.markExit p part) :=
  (retireAndRescreen_frame s _ _ _).reportFrame

theorem replyArm_frame (s : State) (p : Arm) (kind : Byte) (r : Result) (d : ArmData) :
    ReportFrame s (s.replyArm p kind r d) :=
  ⟨rfl, rfl, rfl, rfl, rfl, rfl, rfl, rfl, rfl, rfl, rfl, rfl⟩

/-! ### The report record -/

/-- The return from LOST leaves what the envelope is computed from (R101). -/
theorem envelope_returnFromLost (s : State) (p : Arm) (request : ProfileName) (xa ya za : Int) (speed : Nat) :
    (s.returnFromLost p).envelope p request xa ya za speed = s.envelope p request xa ya za speed := by
  unfold State.returnFromLost
  dsimp only
  split
  · cases p <;> rfl
  · rfl

theorem armState_returnFromLost_run (s : State) (p : Arm) :
    (s.returnFromLost p).armState p = .run ↔ s.armState p = .run := by
  unfold State.returnFromLost
  dsimp only
  split
  · next h =>
    have hlost : s.armState p = .lost := h
    rw [hlost]
    cases p <;> exact ⟨nofun, nofun⟩
  · exact Iff.rfl

theorem record_returnFromLost_other (s : State) (p : Arm) :
    (s.returnFromLost p).record p.other = s.record p.other := by
  unfold State.returnFromLost
  dsimp only
  split
  · cases p <;> rfl
  · rfl

theorem forced_returnFromLost (s : State) (p : Arm) :
    ((s.returnFromLost p).record p).forced = (s.record p).forced := by
  unfold State.returnFromLost
  dsimp only
  split
  · cases p <;> rfl
  · rfl

theorem records_resumeCheck (s : State) (p : Arm) : (s.resumeCheck p).records = s.records := by
  have hframe := congrArg State.records (frame_resumeCheck s p).2
  exact hframe

/-- The hand-off of a verdict clears the fresh flag of an arm in RUN that it stops, and leaves the rest of the records
(R116, R117, R127). -/
theorem record_takeVerdict (s : State) (p q : Arm) (v : Verdict) :
    (s.takeVerdict p v).record q =
      { s.record q with
        fresh := (s.record q).fresh && !decide (q = p ∧ s.armState p = .run ∧ v.causes.isEmpty = false) } := by
  unfold State.takeVerdict
  cases harm : s.armState p with
  | detached | lost => simp
  | stopped =>
    have hrecord : ((s.startReportTimer p).resumeCheck p).record q = s.record q :=
      congrArg (·.get q) (records_resumeCheck (s.startReportTimer p) p)
    simp [hrecord]
  | run =>
    dsimp only
    cases v.causes.isEmpty with
    | true => simp
    | false =>
      have hrecord : ((s.startReportTimer p).enterStopped p v.causes).record q =
          if q = p then { s.record p with fresh := false } else s.record q :=
        State.record_setRecord _ p q _
      by_cases hq : q = p
      · subst hq; simp [hrecord]
      · simp [hrecord, hq]

theorem exits_retirable (s : State) (p : Arm) (part : Option Box) : s.Retirable (s.exits p part) := by
  refine ⟨nodup_allSlots.filter _, fun k hk => ?_⟩
  have htest := (List.mem_filter.1 hk).2
  split at htest
  · next c hb => rw [hb]; rfl
  · cases htest

/-- Exit marking is part of the report, and leaves the records to it (R118). -/
theorem record_markExit (s : State) (p q : Arm) (part : Option Box) : (s.markExit p part).record q = s.record q := by
  unfold State.markExit State.retireAndRescreen
  split
  · rfl
  · have hretired := record_retireAll (s.exits p part) (some .retired) true q s (exits_retirable s p part)
    rw [if_neg (by simp)] at hretired
    rw [← hretired]
    exact congrArg (·.get q) (rescreenFrom_frame _ [] _).2.1

/-! ### The envelope -/

section
variable (s : State) (p : Arm) (request : ProfileName) (xa ya za : Int) (speed : Nat)

theorem envelope_used :
    (s.envelope p request xa ya za speed).used =
      if (s.record p).forced.getD request = .reduced ∧
          ((s.record p).inUse = .reduced ∨ min speed 4095 ≤ (s.profiles.get p).reduced.cap) then .reduced
      else .full := by
  rw [← profileTarget_eq, ← chooseProfile_used]
  rfl

theorem envelope_pending :
    (s.envelope p request xa ya za speed).pending = true ↔
      (s.record p).forced.getD request = .reduced ∧ ¬ ((s.record p).forced.getD request = .reduced ∧
        ((s.record p).inUse = .reduced ∨ min speed 4095 ≤ (s.profiles.get p).reduced.cap)) := by
  rw [← profileTarget_eq, ← chooseProfile_pending]
  rfl

theorem envelope_d :
    (s.envelope p request xa ya za speed).d =
      stoppingDistance ((s.profiles.get p).get (s.envelope p request xa ya za speed).used) (min speed 4095) := rfl

theorem envelope_swept :
    (s.envelope p request xa ya za speed).last.swept =
      sweptBox (s.cal.get p) (toolPoint (s.cal.get p) xa ya za) (s.envelope p request xa ya za speed).d := by
  unfold State.envelope
  dsimp only

theorem envelope_binPart :
    (s.envelope p request xa ya za speed).last.binPart = (s.envelope p request xa ya za speed).last.swept.binCut := by
  unfold State.envelope
  dsimp only

theorem envelope_verdict :
    (s.envelope p request xa ya za speed).last.verdict =
      s.formVerdict p (s.envelope p request xa ya za speed).last.swept.binCut (min speed 4095)
        ((s.profiles.get p).get (s.envelope p request xa ya za speed).used).cap := by
  unfold State.envelope
  dsimp only
  rfl

end

/-! ### The whole report -/

section
variable (s : State) (p : Arm) (request : ProfileName) (xa ya za : Int) (speed : Nat)

theorem reportOwner_answer :
    (reportOwner p request xa ya za speed s).result = .ok ∧
      (reportOwner p request xa ya za speed s).data =
        .report (s.envelope p request xa ya za speed).last.verdict (s.envelope p request xa ya za speed).d := by
  unfold reportOwner
  dsimp only
  rw [envelope_returnFromLost]
  exact ⟨rfl, rfl⟩

theorem reportOwner_frame : ReportFrame s (reportOwner p request xa ya za speed s).state := by
  unfold reportOwner
  dsimp only
  exact ((((returnFromLost_frame s p).trans (recordReport_frame _ p request _)).trans (takeVerdict_frame _ p _)).trans
    (markEntry_frame _ p _)).trans (markExit_frame _ p _)

/-- The record of the reporting arm: what the report brought, with the fresh flag clear where the verdict stopped the
arm (R103, R105, R117). -/
theorem reportOwner_record :
    (reportOwner p request xa ya za speed s).state.record p =
      { requested := request, forced := (s.record p).forced, inUse := (s.envelope p request xa ya za speed).used
        pending := (s.envelope p request xa ya za speed).pending
        last := some (s.envelope p request xa ya za speed).last
        fresh := !decide (s.armState p = .run ∧
          (s.envelope p request xa ya za speed).last.verdict.causes.isEmpty = false) } := by
  unfold reportOwner
  dsimp only
  rw [record_markExit, State.markEntry, State.mapBodies_record, record_takeVerdict, envelope_returnFromLost]
  have hrun (e : Envelope) : ((s.returnFromLost p).recordReport p request e).armState p = .run ↔ s.armState p = .run :=
    armState_returnFromLost_run s p
  have hrecord (e : Envelope) : ((s.returnFromLost p).recordReport p request e).record p =
      { requested := request, forced := (s.record p).forced, inUse := e.used, pending := e.pending, last := some e.last
        fresh := true } := by
    rw [← forced_returnFromLost]
    exact (State.record_setRecord _ p p _).trans (if_pos rfl)
  simp only [true_and, hrun, hrecord, Bool.true_and]

theorem reportOwner_record_other :
    (reportOwner p request xa ya za speed s).state.record p.other = s.record p.other := by
  have hne : p.other ≠ p := (ne_other p).symm
  unfold reportOwner
  dsimp only
  rw [record_markExit, State.markEntry, State.mapBodies_record, record_takeVerdict]
  simp only [hne, false_and, decide_false, Bool.not_false, Bool.and_true, State.recordReport, State.record_setRecord,
    if_false, record_returnFromLost_other]

end

theorem exec_report {s : State} (hr : s.inReset = false) (hm : s.mode = .run) (p : Arm) (arg : Byte)
    (xa ya za v : Half) :
    exec (.report p arg xa ya za v) s =
      .next ((reportOwner p (requestOf arg) xa.toInt ya.toInt za.toInt v.toNat s).state.replyArm p 0x03 .ok
        (.report (s.envelope p (requestOf arg) xa.toInt ya.toInt za.toInt v.toNat).last.verdict
          (s.envelope p (requestOf arg) xa.toInt ya.toInt za.toInt v.toNat).d)) := by
  have hnext := takeArmFrame_next hr p 0x03 fun t => if t.mode = .config then refuse t .refusedMode
    else reportOwner p (requestOf arg) xa.toInt ya.toInt za.toInt v.toNat t
  obtain ⟨hresult, hdata⟩ := reportOwner_answer s p (requestOf arg) xa.toInt ya.toInt za.toInt v.toNat
  simp only [hm, reduceCtorEq, if_false, hresult, hdata] at hnext
  exact hnext

theorem armStatus_replyArm (s : State) (p : Arm) (kind : Byte) (r : Result) (d : ArmData) :
    (s.replyArm p kind r d).armStatus p = s.armStatus p := by
  cases p <;> rfl

theorem reply_replyArm (s : State) (p : Arm) (kind : Byte) (r : Result) (d : ArmData) :
    ((s.replyArm p kind r d).link p).reply =
      { echo := kind, status := (s.replyArm p kind r d).armStatus p, result := r, notice := (s.link p).queue.head?
        data := d } := by
  rw [link_replyArm, if_pos rfl, armStatus_replyArm]

theorem Verdict.causes_nonempty_iff (v : Verdict) :
    v.causes.isEmpty = false ↔ v.place = .escaped ∨ v.intrusion = true ∨ v.overspeed = true := by
  rw [← Bool.not_eq_true, v.causes_isEmpty]
  simp only [ne_eq, not_and_or, not_not, Bool.not_eq_false]

/-- Settles O20: the envelope of the report, the record that takes it, the reply, and what stays. -/
theorem reportRecorded : Obligations.ReportRecorded := by
  intro p arg xa ya za v s hr hm
  have hexec := exec_report hr hm p arg xa ya za v
  have hused := envelope_used s p (requestOf arg) xa.toInt ya.toInt za.toInt v.toNat
  have hpending := envelope_pending s p (requestOf arg) xa.toInt ya.toInt za.toInt v.toNat
  have hd := envelope_d s p (requestOf arg) xa.toInt ya.toInt za.toInt v.toNat
  have hswept := envelope_swept s p (requestOf arg) xa.toInt ya.toInt za.toInt v.toNat
  have hpart := envelope_binPart s p (requestOf arg) xa.toInt ya.toInt za.toInt v.toNat
  have hverdict := envelope_verdict s p (requestOf arg) xa.toInt ya.toInt za.toInt v.toNat
  have hrecord := reportOwner_record s p (requestOf arg) xa.toInt ya.toInt za.toInt v.toNat
  have hother := reportOwner_record_other s p (requestOf arg) xa.toInt ya.toInt za.toInt v.toNat
  have hframe := reportOwner_frame s p (requestOf arg) xa.toInt ya.toInt za.toInt v.toNat
  generalize s.envelope p (requestOf arg) xa.toInt ya.toInt za.toInt v.toNat = e at *
  generalize (reportOwner p (requestOf arg) xa.toInt ya.toInt za.toInt v.toNat s).state = u at *
  refine ⟨_, e.last, hexec, ?_⟩
  intro r speed request target pair reduced prof d part
  have hprof : pair.get e.used = prof := by
    rw [hused, ProfilePair.get_ite]
    rfl
  have hde : e.d = d := by
    rw [hd]
    exact congrArg (stoppingDistance · speed) hprof
  have hv : e.last.verdict = s.formVerdict p part speed prof.cap := by
    rw [hverdict, hprof]
  have hfresh : (u.record p).fresh = false ↔ s.armState p = .run ∧
      (e.last.verdict.place = .escaped ∨ e.last.verdict.intrusion = true ∨ e.last.verdict.overspeed = true) := by
    rw [hrecord, Bool.not_eq_false', decide_eq_true_iff, Verdict.causes_nonempty_iff]
  have hreply := reply_replyArm u p 0x03 .ok (.report e.last.verdict e.d)
  have hall := hframe.trans (replyArm_frame u p 0x03 .ok (.report e.last.verdict e.d))
  have hrec : (u.replyArm p 0x03 .ok (.report e.last.verdict e.d)).record p = u.record p :=
    State.replyArm_record _ _ _ _ _ _
  have hrecOther : (u.replyArm p 0x03 .ok (.report e.last.verdict e.d)).record p.other = u.record p.other :=
    State.replyArm_record _ _ _ _ _ _
  generalize u.replyArm p 0x03 .ok (.report e.last.verdict e.d) = t at *
  rw [hrec, hrecOther, hother, hreply, hde]
  refine ⟨hde ▸ hswept, hpart, ?_, ?_, ?_, ?_, ?_, ?_, ?_, ?_, ?_, hfresh, rfl, rfl, rfl, rfl, rfl, hall.mode, hall.cal,
    hall.profiles, hall.timing, hall.cell, hall.keepOut, hall.lines, hall.resetnLow, hall.supplyLow, hall.mask,
    hall.waitMs, hall.haltMs⟩
  · rw [hv]; exact formVerdict_outside_iff s p part speed prof.cap
  · rw [hv]; exact formVerdict_contained_iff s p part speed prof.cap
  · rw [hv]; exact formVerdict_intrusion_iff s p part speed prof.cap
  · rw [hv]; exact formVerdict_overspeed_iff s p part speed prof.cap
  · rw [hrecord]
  · rw [hrecord]; rfl
  · rw [hrecord]
  · rw [hrecord]; exact hused
  · rw [hrecord]; exact hpending

end Sys2Proof.Machine
end

section
/-! PROOFS. Fields packed into bytes and read back, and bytes laid out one after another in a sealed reply (R176, R185,
R186): what the layouts of O14 are built from. -/

namespace Sys2Proof.Machine

/-! ### Fields of a byte -/

theorem toNat_byteOf {n : Nat} (h : n < 256) : (byteOf n).toNat = n :=
  (BitVec.toNat_ofNat n 8).trans (Nat.mod_eq_of_lt h)

theorem field_byteOf {n : Nat} (h : n < 256) (i w : Nat) : ((byteOf n).extractLsb' i w).toNat = n / 2 ^ i % 2 ^ w := by
  rw [BitVec.extractLsb'_toNat, toNat_byteOf h, Nat.shiftRight_eq_div_pow]

theorem bit_byteOf {n i : Nat} {b : Bool} (h : n < 256) (hb : n / 2 ^ i % 2 = b.toNat) : (byteOf n).getLsbD i = b := by
  unfold BitVec.getLsbD
  rw [toNat_byteOf h, Nat.testBit_eq_decide_div_mod_eq, hb]
  cases b <;> rfl

theorem field_eq_zero {n i w : Nat} (h : n < 2 ^ i) (hn : n < 256) : (byteOf n).extractLsb' i w = 0 := by
  apply BitVec.eq_of_toNat_eq
  rw [field_byteOf hn, Nat.div_eq_of_lt h]
  simp

/-! ### Bit maps -/

theorem testBit_bitmap (l : List Bool) : ∀ i, (bitmap l).testBit i = l.getD i false := by
  induction l with
  | nil => intro i; simp [bitmap]
  | cons b rest ih =>
    have hbit : bitmap (b :: rest) = Nat.bit b (bitmap rest) := by
      rw [Nat.bit_val, Nat.add_comm]
      rfl
    intro i
    rw [hbit]
    cases i with
    | zero => simp
    | succ i => rw [Nat.testBit_bit_succ, ih]; rfl

theorem bitmap_lt (l : List Bool) : bitmap l < 2 ^ l.length := by
  induction l with
  | nil => decide
  | cons b rest ih =>
    have hb : b.toNat ≤ 1 := b.toNat_le
    show b.toNat + 2 * bitmap rest < 2 ^ (rest.length + 1)
    rw [Nat.pow_succ]
    omega

theorem getLsbD_bitmap (l : List Bool) {i : Nat} (h : i < 8) : (byteOf (bitmap l)).getLsbD i = l.getD i false := by
  rw [← testBit_bitmap]
  unfold byteOf
  rw [BitVec.getLsbD_ofNat, decide_eq_true h, Bool.true_and]

theorem rest_bitmap {l : List Bool} {n : Nat} (hl : l.length = n) (hn : n ≤ 8) (w : Nat) :
    (byteOf (bitmap l)).extractLsb' n w = 0 := by
  subst hl
  exact field_eq_zero (bitmap_lt l) ((bitmap_lt l).trans_le (Nat.pow_le_pow_right (by decide) hn))

/-! ### Fields of more than one byte -/

theorem halfBytes_append (h : Half) : h.extractLsb' 8 8 ++ h.extractLsb' 0 8 = h := by
  ext i hi
  simp only [BitVec.getElem_append, BitVec.getElem_extractLsb']
  split
  · simp [BitVec.getLsbD_eq_getElem hi]
  · have hsum : 8 + (i - 8) = i := by omega
    rw [hsum, BitVec.getLsbD_eq_getElem hi]

theorem toInt_ofInt_half {x : Int} (h : within (-32768) 32767 x) : (BitVec.ofInt 16 x).toInt = x := by
  obtain ⟨hlo, hhi⟩ := h
  rw [BitVec.toInt_ofInt]
  apply Int.bmod_eq_of_le <;> omega

theorem unsigned24_value {n : Nat} (h : n ≤ 16777215) :
    (byteOf n).toNat + 256 * (byteOf (n / 256)).toNat + 65536 * (byteOf (n / 65536)).toNat = n := by
  simp only [byteOf, BitVec.toNat_ofNat]
  omega

theorem byteAt_unsigned24 (n : Nat) {j : Nat} (h : j < 3) : byteAt (unsigned24 n) j = byteOf (n / 2 ^ (8 * j)) := by
  have hcases : j = 0 ∨ j = 1 ∨ j = 2 := by omega
  rcases hcases with rfl | rfl | rfl
  · simp [byteAt, unsigned24]
  · simp [byteAt, unsigned24]
  · simp [byteAt, unsigned24]

/-- Bit i of a map of 24 bits stands in bit i mod 8 of byte i / 8. -/
theorem getLsbD_unsigned24 (n : Nat) {i : Nat} (h : i < 24) :
    (byteAt (unsigned24 n) (i / 8)).getLsbD (i % 8) = n.testBit i := by
  have hmod : i % 8 < 8 := Nat.mod_lt _ (by decide)
  rw [byteAt_unsigned24 n (by omega), byteOf, BitVec.getLsbD_ofNat, Nat.testBit_div_two_pow]
  simp [hmod, Nat.mod_add_div]

/-! ### Packed items -/

theorem length_packPairs (xs : List Nat) : (packPairs xs).length = xs.length / 4 := by
  induction xs using packPairs.induct with
  | case1 w x y z rest ih => simp only [packPairs, List.length_cons, ih]; omega
  | case2 xs h =>
    rcases xs with _ | ⟨w, _ | ⟨x, _ | ⟨y, _ | ⟨z, rest⟩⟩⟩⟩
    · rfl
    · simp [packPairs]
    · simp [packPairs]
    · simp [packPairs]
    · exact (h w x y z rest rfl).elim

theorem length_packNibbles (xs : List Nat) : (packNibbles xs).length = (xs.length + 1) / 2 := by
  induction xs using packNibbles.induct with
  | case1 => rfl
  | case2 => simp [packNibbles]
  | case3 x y rest ih => simp only [packNibbles, List.length_cons, ih]; omega

theorem byteAt_of_le {l : List Byte} {n : Nat} (h : l.length ≤ n) : byteAt l n = 0 := by
  simp [byteAt, List.getD_eq_getElem?_getD, List.getElem?_eq_none h]

/-- Item i of a packing four to a byte stands in bits 2(i mod 4) and the next of byte i / 4. -/
theorem packPairs_reads (xs : List Nat) (hlen : 4 ∣ xs.length) (hx : ∀ x ∈ xs, x < 4) :
    ∀ {i x : Nat}, xs[i]? = some x → ((byteAt (packPairs xs) (i / 4)).extractLsb' (2 * (i % 4)) 2).toNat = x := by
  induction xs using packPairs.induct with
  | case1 w x y z rest ih =>
    intro i v hi
    simp only [List.mem_cons, forall_eq_or_imp] at hx
    obtain ⟨hw, hx, hy, hz, hrest⟩ := hx
    have hbyte : w + 4 * x + 16 * y + 64 * z < 256 := by omega
    have hfirst (j : Nat) (hj : j < 4) :
        ((byteAt (packPairs (w :: x :: y :: z :: rest)) (j / 4)).extractLsb' (2 * (j % 4)) 2).toNat =
          (w + 4 * x + 16 * y + 64 * z) / 2 ^ (2 * j) % 2 ^ 2 := by
      rw [Nat.div_eq_of_lt hj, Nat.mod_eq_of_lt hj]
      exact field_byteOf hbyte _ _
    rcases i with _ | _ | _ | _ | i
    · cases hi; rw [hfirst 0 (by decide)]; omega
    · cases hi; rw [hfirst 1 (by decide)]; omega
    · cases hi; rw [hfirst 2 (by decide)]; omega
    · cases hi; rw [hfirst 3 (by decide)]; omega
    · have hrec := ih ((Nat.dvd_add_left (Nat.dvd_refl 4)).1 hlen) hrest hi
      have hdiv : (i + 4) / 4 = i / 4 + 1 := by omega
      have hmod : (i + 4) % 4 = i % 4 := by omega
      show ((byteAt (packPairs (w :: x :: y :: z :: rest)) ((i + 4) / 4)).extractLsb' (2 * ((i + 4) % 4)) 2).toNat = v
      rw [hdiv, hmod]
      exact hrec
  | case2 xs h =>
    rcases xs with _ | ⟨w, _ | ⟨x, _ | ⟨y, _ | ⟨z, rest⟩⟩⟩⟩
    · intro i x hi; simp at hi
    · simp at hlen
    · simp at hlen
    · simp at hlen
    · exact (h w x y z rest rfl).elim

/-- Item i of a packing two to a byte stands in the low or the high half of byte i / 2. -/
theorem packNibbles_reads (xs : List Nat) (hx : ∀ x ∈ xs, x < 16) :
    ∀ {i x : Nat}, xs[i]? = some x → ((byteAt (packNibbles xs) (i / 2)).extractLsb' (4 * (i % 2)) 4).toNat = x := by
  induction xs using packNibbles.induct with
  | case1 => intro i x hi; simp at hi
  | case2 w =>
    intro i v hi
    have hw := hx w (by simp)
    rcases i with _ | i
    · cases hi
      have hfield := field_byteOf (show w < 256 by omega) 0 4
      have hvalue : w / 2 ^ 0 % 2 ^ 4 = w := by omega
      rw [hvalue] at hfield
      exact hfield
    · simp at hi
  | case3 x y rest ih =>
    intro i v hi
    simp only [List.mem_cons, forall_eq_or_imp] at hx
    obtain ⟨hx, hy, hrest⟩ := hx
    have hbyte : x + 16 * y < 256 := by omega
    have hfirst (j : Nat) (hj : j < 2) :
        ((byteAt (packNibbles (x :: y :: rest)) (j / 2)).extractLsb' (4 * (j % 2)) 4).toNat =
          (x + 16 * y) / 2 ^ (4 * j) % 2 ^ 4 := by
      rw [Nat.div_eq_of_lt hj, Nat.mod_eq_of_lt hj]
      exact field_byteOf hbyte _ _
    rcases i with _ | _ | i
    · cases hi; rw [hfirst 0 (by decide)]; omega
    · cases hi; rw [hfirst 1 (by decide)]; omega
    · have hrec := ih hrest hi
      have hdiv : (i + 2) / 2 = i / 2 + 1 := by omega
      have hmod : (i + 2) % 2 = i % 2 := by omega
      show ((byteAt (packNibbles (x :: y :: rest)) ((i + 2) / 2)).extractLsb' (4 * ((i + 2) % 2)) 4).toNat = v
      rw [hdiv, hmod]
      exact hrec

end Sys2Proof.Machine
end

section
/-! PROOFS. Sealed replies, and bytes that stand in them one after another (R176, R185): the reading side of O14. -/

namespace Sys2Proof.Machine

/-! ### Sealed frames -/

theorem length_sealFrame {size : Nat} {content : List Byte} (h : content.length < size) :
    (sealFrame size content).length = size := by
  simp only [sealFrame, List.length_append, List.length_replicate, List.length_singleton]
  omega

theorem byteAt_append_left {xs ys : List Byte} {n : Nat} (h : n < xs.length) : byteAt (xs ++ ys) n = byteAt xs n :=
  List.getD_append _ _ _ _ h

theorem byteAt_append_right (xs ys : List Byte) (n : Nat) : byteAt (xs ++ ys) (xs.length + n) = byteAt ys n := by
  unfold byteAt
  rw [List.getD_append_right _ _ _ _ (Nat.le_add_right _ _), Nat.add_sub_cancel_left]

theorem byteAt_replicate_zero (m n : Nat) : byteAt (List.replicate m 0) n = 0 := by
  unfold byteAt
  rw [List.getD_eq_getElem?_getD, List.getElem?_replicate]
  split <;> rfl

/-- Before its last byte a sealed frame reads as its content, with zeros behind it. -/
theorem byteAt_sealFrame {size n : Nat} {content : List Byte} (h : content.length < size) (hn : n < size - 1) :
    byteAt (sealFrame size content) n = byteAt content n := by
  unfold sealFrame
  dsimp only
  rw [byteAt_append_left (by simp only [List.length_append, List.length_replicate]; omega)]
  by_cases hlt : n < content.length
  · exact byteAt_append_left hlt
  · have hsum : n = content.length + (n - content.length) := by omega
    rw [byteAt_of_le (Nat.le_of_not_lt hlt), hsum, byteAt_append_right, byteAt_replicate_zero]

/-- The last byte of a sealed frame is the CRC of those before it (R176). -/
theorem crc_sealFrame {size : Nat} {content : List Byte} (h : content.length < size) :
    byteAt (sealFrame size content) (size - 1) = crc8 ((sealFrame size content).take (size - 1)) := by
  have hbody : (content ++ List.replicate (size - 1 - content.length) 0).length = size - 1 := by
    simp only [List.length_append, List.length_replicate]
    omega
  unfold sealFrame
  dsimp only
  rw [List.take_left' hbody]
  have hlast := byteAt_append_right (content ++ List.replicate (size - 1 - content.length) 0)
    [crc8 (content ++ List.replicate (size - 1 - content.length) 0)] 0
  rw [hbody, Nat.add_zero] at hlast
  exact hlast

/-! ### Bytes in their places -/

/-- Bytes stand in a frame from byte i on, with zeros behind them up to byte e. -/
def Stands (f : List Byte) (i e : Nat) (bytes : List Byte) : Prop :=
  ∀ n, i + n < e → byteAt f (i + n) = byteAt bytes n

section
variable {f xs ys : List Byte} {i e : Nat} {b : Byte}

theorem stands_sealFrame {size : Nat} {content : List Byte} (h : content.length < size) :
    Stands (sealFrame size content) 0 (size - 1) content := fun n hn => by
  rw [Nat.zero_add] at hn ⊢
  exact byteAt_sealFrame h hn

theorem Stands.head (h : Stands f i e (b :: xs)) (hi : i < e) : byteAt f i = b := h 0 hi

theorem Stands.tail (h : Stands f i e (b :: xs)) : Stands f (i + 1) e xs := fun n hn => by
  rw [Nat.add_right_comm i 1 n] at hn ⊢
  exact h (n + 1) hn

theorem Stands.behind (h : Stands f i e (xs ++ ys)) : Stands f (i + xs.length) e ys := fun n hn => by
  rw [Nat.add_assoc] at hn ⊢
  rw [h _ hn, byteAt_append_right]

theorem Stands.nil_append (h : Stands f i e xs) : Stands f i e (xs ++ []) := by rwa [List.append_nil]

/-- Where the bytes end the layout names nothing (R185). -/
theorem Stands.ends (h : Stands f i e xs) {j : Nat} (hj : i + xs.length ≤ j) : zeroBytes f j e := by
  intro k hk he
  have hsum : i + (k - i) = k := by omega
  have hbyte := h (k - i) (by omega)
  rw [hsum, byteAt_of_le (l := xs) (by omega)] at hbyte
  exact hbyte

theorem Stands.zeros {m j : Nat} (h : Stands f i e (List.replicate m 0 ++ xs)) (hj : j ≤ i + m) (he : j ≤ e) :
    zeroBytes f i j := by
  intro k hk hkj
  have hsum : i + (k - i) = k := by omega
  have hbyte := h (k - i) (by omega)
  rw [hsum, byteAt_append_left (by rw [List.length_replicate]; omega), byteAt_replicate_zero] at hbyte
  exact hbyte

theorem Stands.half {x : Half} (h : Stands f i e (halfBytes x ++ xs)) (hi : i + 1 < e) :
    halfAt f i = x ∧ Stands f (i + 2) e xs := by
  refine ⟨?_, h.behind⟩
  unfold halfAt
  rw [h.head (Nat.lt_of_succ_lt hi), h.tail.head hi]
  exact halfBytes_append x

theorem Stands.halfNat {n : Nat} (h : Stands f i e (unsigned16 n ++ xs)) (hi : i + 1 < e) (hn : n ≤ 65535) :
    (halfAt f i).toNat = n ∧ Stands f (i + 2) e xs := by
  obtain ⟨hhalf, hrest⟩ := h.half hi
  refine ⟨?_, hrest⟩
  rw [hhalf, BitVec.toNat_ofNat]
  omega

theorem Stands.halfInt {x : Int} (h : Stands f i e (signed16 x ++ xs)) (hi : i + 1 < e)
    (hx : within (-32768) 32767 x) : (halfAt f i).toInt = x ∧ Stands f (i + 2) e xs := by
  obtain ⟨hhalf, hrest⟩ := h.half hi
  exact ⟨hhalf ▸ toInt_ofInt_half hx, hrest⟩

theorem Stands.box {box : Box} (h : Stands f i e (box.bytes ++ xs)) (hi : i + 11 < e) (hb : box.inFields) :
    boxOf (boxAt f i) = box ∧ Stands f (i + 12) e xs := by
  obtain ⟨hxlo, hxhi, hylo, hyhi, hzlo, hzhi⟩ := hb
  simp only [Box.bytes, List.append_assoc] at h
  obtain ⟨h0, h⟩ := h.halfInt (by omega) hxlo
  obtain ⟨h1, h⟩ := h.halfInt (by omega) hxhi
  obtain ⟨h2, h⟩ := h.halfInt (by omega) hylo
  obtain ⟨h3, h⟩ := h.halfInt (by omega) hyhi
  obtain ⟨h4, h⟩ := h.halfInt (by omega) hzlo
  obtain ⟨h5, h⟩ := h.halfInt (by omega) hzhi
  refine ⟨?_, h⟩
  unfold boxOf boxAt
  dsimp only
  rw [h0, h1, h2, h3, h4, h5]

end

/-! ### Codes in a byte -/

section
variable (k : Fin 24) (g : Fin 16)

theorem toNat_slotByte : (byteOf k.val).toNat = k.val := toNat_byteOf (by omega)

theorem toNat_genByte : (byteOf g.val).toNat = g.val := toNat_byteOf (by omega)

end

theorem toNat_resultByte (r : Result) : (byteOf r.code).toNat = r.code := toNat_byteOf (by cases r <;> decide)

theorem toNat_noticeByte (n : NoticeKind) : (byteOf n.code).toNat = n.code := toNat_byteOf (by cases n <;> decide)

theorem toNat_stateByte (c : ClaimState) : (byteOf c.code).toNat = c.code := toNat_byteOf (by cases c <;> decide)

theorem toNat_classByte (c : ClaimClass) : (byteOf c.code).toNat = c.code := toNat_byteOf (by cases c <;> decide)

theorem toNat_armByte (p : Arm) : (byteOf (armCode p)).toNat = armCode p := toNat_byteOf (by cases p <;> decide)

/-! ### The arm replies -/

theorem noticeReads_of_stands {f : List Byte} {e : Nat} (n : Option Notice) (rest : List Byte) (he : 6 ≤ e)
    (h : Stands f 3 e (noticeBytes n ++ rest)) : NoticeReads f n := by
  cases n with
  | none => exact h.zeros (m := 3) (Nat.le_refl _) he
  | some n =>
    refine ⟨?_, ?_, ?_⟩
    · rw [h.head (by omega)]; exact toNat_noticeByte _
    · rw [h.tail.head (by omega)]; exact toNat_slotByte _
    · rw [h.tail.tail.head (by omega)]; exact toNat_genByte _

theorem length_noticeBytes (n : Option Notice) : (noticeBytes n).length = 3 := by cases n <;> rfl

theorem entryReads_bytes (x : ListEntry) :
    EntryReads (byteOf (x.slot.val + 32 * x.state.code)) (byteOf x.gen.val) (some x) := by
  have hcode : x.state.code ≤ 4 := by cases x.state <;> decide
  have hbyte : x.slot.val + 32 * x.state.code < 256 := by omega
  refine ⟨?_, ?_, toNat_genByte _⟩
  · rw [field_byteOf hbyte]; omega
  · rw [field_byteOf hbyte]; omega

theorem entryReads_of_stands {f : List Byte} {e : Nat} (entries : List ListEntry) :
    ∀ (i n : Nat), Stands f i e (entries.flatMap ListEntry.bytes) → i + 2 * n + 1 < e →
      EntryReads (byteAt f (i + 2 * n)) (byteAt f (i + 1 + 2 * n)) entries[n]? := by
  induction entries with
  | nil =>
    intro i n h he
    have hzero := h.ends (Nat.le_refl i)
    exact ⟨hzero _ (by omega) (by omega), hzero _ (by omega) (by omega)⟩
  | cons x rest ih =>
    intro i n h he
    cases n with
    | zero =>
      rw [Nat.mul_zero, Nat.add_zero, Nat.add_zero, h.head (by omega), h.tail.head (by omega)]
      exact entryReads_bytes x
    | succ n =>
      have hrest := ih (i + 2) n h.tail.tail (by omega)
      have h0 : i + 2 * (n + 1) = i + 2 + 2 * n := by omega
      have h1 : i + 1 + 2 * (n + 1) = i + 2 + 1 + 2 * n := by omega
      rw [h0, h1]
      exact hrest

theorem length_entryBytes (entries : List ListEntry) :
    (entries.flatMap ListEntry.bytes).length = 2 * entries.length := by
  induction entries with
  | nil => rfl
  | cons x rest ih =>
    rw [List.flatMap_cons, List.length_append, ih, List.length_cons]
    show 2 + _ = _
    omega

theorem length_armDataBytes {d : ArmData} (h : d.Fits) : d.bytes.length ≤ 9 := by
  cases d with
  | empty | report | handle | query => simp [ArmData.bytes, unsigned16, halfBytes]
  | list count entries =>
    obtain ⟨-, hlen⟩ := h
    simp only [ArmData.bytes, List.length_cons, length_entryBytes]
    omega

/-- Each layout of section 9.5, read off from byte 6 on. -/
theorem armDataReads_of_stands {f : List Byte} {d : ArmData} (hd : d.Fits) (h : Stands f 6 15 d.bytes) :
    ArmDataReads f d := by
  cases d with
  | empty => exact h.ends (Nat.le_refl _)
  | report v d =>
    obtain ⟨hhalf, hrest⟩ := h.tail.nil_append.halfNat (by decide) hd
    exact ⟨h.head (by decide), hhalf, hrest.ends (Nat.le_refl _)⟩
  | handle slot gen =>
    refine ⟨?_, ?_, h.ends (Nat.le_refl _)⟩
    · rw [h.head (by decide)]; exact toNat_slotByte _
    · rw [h.tail.head (by decide)]; exact toNat_genByte _
  | query state cls tens =>
    refine ⟨?_, ?_, ?_, h.ends (Nat.le_refl _)⟩
    · rw [h.head (by decide)]; exact toNat_stateByte _
    · rw [h.tail.head (by decide)]; exact toNat_classByte _
    · rw [h.tail.tail.head (by decide)]; exact toNat_byteOf (Nat.lt_succ_of_le hd)
  | list count entries =>
    obtain ⟨hcount, -⟩ := hd
    refine ⟨?_, fun n hn => entryReads_of_stands entries 7 n h.tail (by omega)⟩
    rw [h.head (by decide)]
    exact toNat_byteOf (Nat.lt_succ_of_le hcount)

end Sys2Proof.Machine
end

section
/-! PROOFS. The bytes of the cell controller's replies, and of every reply (sections 9.4 to 9.6, R41, R171, R176, R185,
R186): O14. -/

namespace Sys2Proof.Machine

/-! ### Status bytes -/

theorem ArmStatus.byte_reads (t : ArmStatus) :
    (t.byte.extractLsb' 0 3).toNat = t.state.code ∧ t.byte.getLsbD 3 = t.noticeLost ∧
      (t.byte.getLsbD 4).toNat = t.inUse.code ∧ t.byte.getLsbD 5 = t.pending ∧ t.byte.getLsbD 6 = t.resumeRequested ∧
      t.byte.getLsbD 7 = t.stopAcknowledged := by
  have hstate : t.state.code ≤ 3 := by cases t.state <;> decide
  have huse : t.inUse.code = (t.inUse == .reduced).toNat := by cases t.inUse <;> rfl
  have hlost := t.noticeLost.toNat_le
  have hused := (t.inUse == .reduced).toNat_le
  have hpending := t.pending.toNat_le
  have hresume := t.resumeRequested.toNat_le
  have hack := t.stopAcknowledged.toNat_le
  unfold ArmStatus.byte
  rw [huse]
  have hbyte : t.state.code + 8 * t.noticeLost.toNat + 16 * (t.inUse == .reduced).toNat + 32 * t.pending.toNat +
      64 * t.resumeRequested.toNat + 128 * t.stopAcknowledged.toNat < 256 := by omega
  refine ⟨?_, bit_byteOf hbyte (by omega), congrArg Bool.toNat (bit_byteOf hbyte (by omega)),
    bit_byteOf hbyte (by omega), bit_byteOf hbyte (by omega), bit_byteOf hbyte (by omega)⟩
  rw [field_byteOf hbyte]
  omega

theorem Verdict.byte_reads (v : Verdict) :
    (v.byte.extractLsb' 0 2).toNat = v.place.code ∧ v.byte.getLsbD 2 = v.intrusion ∧
      v.byte.getLsbD 3 = v.overspeed ∧ v.byte.extractLsb' 4 4 = 0 := by
  have hplace : v.place.code ≤ 2 := by cases v.place <;> decide
  have hintrusion := v.intrusion.toNat_le
  have hoverspeed := v.overspeed.toNat_le
  unfold Verdict.byte
  have hbyte : v.place.code + 4 * v.intrusion.toNat + 8 * v.overspeed.toNat < 2 ^ 4 := by omega
  refine ⟨?_, bit_byteOf (by omega) (by omega), bit_byteOf (by omega) (by omega), field_eq_zero hbyte (by omega)⟩
  rw [field_byteOf (by omega)]
  omega

theorem CellReply.flagByte_reads (r : CellReply) :
    r.flagByte.getLsbD 0 = (r.mode == .run) ∧ r.flagByte.getLsbD 1 = r.clamped ∧
      r.flagByte.getLsbD 2 = r.alertLow ∧ r.flagByte.extractLsb' 3 5 = 0 :=
  ⟨getLsbD_bitmap _ (by decide), getLsbD_bitmap _ (by decide), getLsbD_bitmap _ (by decide),
    rest_bitmap (n := 3) rfl (by decide) 5⟩

theorem CauseSet.byte_reads (c : CauseSet) :
    c.byte.getLsbD 0 = c.envelope ∧ c.byte.getLsbD 1 = c.intrusion ∧ c.byte.getLsbD 2 = c.overspeed ∧
      c.byte.getLsbD 3 = c.estop ∧ c.byte.getLsbD 4 = c.supervisor ∧ c.byte.getLsbD 5 = c.link ∧
      c.byte.extractLsb' 6 2 = 0 :=
  ⟨getLsbD_bitmap _ (by decide), getLsbD_bitmap _ (by decide), getLsbD_bitmap _ (by decide),
    getLsbD_bitmap _ (by decide), getLsbD_bitmap _ (by decide), getLsbD_bitmap _ (by decide),
    rest_bitmap (n := 6) rfl (by decide) 2⟩

/-! ### READ_CLAIM -/

/-- The owner, class and box of READ_CLAIM, 0 for a FREE slot (R186). -/
def claimBytes : Option ClaimData → List Byte
  | none => List.replicate 14 0
  | some c => [byteOf (armCode c.owner), byteOf c.cls.code] ++ c.box.bytes

/-- The blocker set and the wait position of READ_CLAIM, 0 for a claim that does not wait (R41, R186). -/
def waitBytes (position : Nat) : SlotBody → List Byte
  | .waiting _ _ bl =>
      unsigned24 (bitmap (allSlots.map fun j => bl.slots.contains j)) ++
        [byteOf (bitmap (allGroups.map fun g => bl.groups.contains g)), byteOf position]
  | _ => List.replicate 5 0

theorem claimRecordBytes_eq (slot : Fin 24) (record : Slot) (position : Nat) :
    claimRecordBytes slot record position =
      byteOf slot.val :: byteOf record.gen.val :: byteOf record.body.state.code ::
        (claimBytes record.body.claim ++ (unsigned16 record.body.remaining ++ waitBytes position record.body)) := by
  unfold claimRecordBytes
  cases record.body <;> simp [SlotBody.claim, claimBytes, waitBytes]

theorem length_claimBytes (c : Option ClaimData) : (claimBytes c).length = 14 := by cases c <;> rfl

theorem length_waitBytes (position : Nat) (b : SlotBody) : (waitBytes position b).length = 5 := by cases b <;> rfl

/-- Bytes 6 to 19 of READ_CLAIM read back as the slot's claim. -/
def ClaimReads (f : List Byte) : Option ClaimData → Prop
  | none => zeroBytes f 6 20
  | some c => (byteAt f 6).toNat = armCode c.owner ∧ (byteAt f 7).toNat = c.cls.code ∧ boxOf (boxAt f 8) = c.box

theorem claimBytes_reads {f rest : List Byte} {e : Nat} (he : 20 ≤ e) (c : Option ClaimData)
    (hc : ∀ d, c = some d → d.box.inFields) (h : Stands f 6 e (claimBytes c ++ rest)) : ClaimReads f c := by
  cases c with
  | none => exact h.zeros (m := 14) (Nat.le_refl _) he
  | some d =>
    refine ⟨?_, ?_, ?_⟩
    · rw [h.head (by omega)]; exact toNat_armByte _
    · rw [h.tail.head (by omega)]; exact toNat_classByte _
    · exact (h.tail.tail.box (by omega) (hc d rfl)).1

theorem getD_slotMap (slots : List (Fin 24)) (k : Fin 24) :
    (allSlots.map fun j => slots.contains j).getD k false = slots.contains k := by
  unfold allSlots
  simp [List.getD_eq_getElem?_getD]

/-- Bytes 22 to 26 of READ_CLAIM read back as what its claim waits for, and where. -/
def WaitReads (f : List Byte) (position : Nat) : SlotBody → Prop
  | .waiting _ _ bl =>
      (∀ k : Fin 24, (byteAt f (22 + k / 8)).getLsbD (k % 8) = bl.slots.contains k) ∧
      (∀ g, (byteAt f 25).getLsbD (mapCode (some g) - 1) = bl.groups.contains g) ∧
      (byteAt f 25).extractLsb' 3 5 = 0 ∧ (byteAt f 26).toNat = position
  | _ => zeroBytes f 22 27

theorem waitBytes_reads {f : List Byte} {position : Nat} (hp : position ≤ 255) (b : SlotBody)
    (h : Stands f 22 31 (waitBytes position b)) : WaitReads f position b := by
  cases b with
  | free | granted | occupied | releasing => exact h.nil_append.zeros (m := 5) (Nat.le_refl _) (by decide)
  | waiting c left bl =>
    have hgroups : byteAt f 25 = byteOf (bitmap (allGroups.map fun g => bl.groups.contains g)) := h 3 (by decide)
    refine ⟨fun k => ?_, fun g => ?_, ?_, ?_⟩
    · have hk : k.val / 8 < 3 := by omega
      rw [h _ (by omega)]
      show (byteAt (unsigned24 _ ++ _) _).getLsbD _ = _
      rw [byteAt_append_left (show k.val / 8 < (unsigned24 _).length from hk), getLsbD_unsigned24 _ k.isLt,
        testBit_bitmap, getD_slotMap]
    · rw [hgroups, getLsbD_bitmap _ (by cases g <;> decide)]
      cases g <;> rfl
    · rw [hgroups]
      exact rest_bitmap (n := 3) rfl (by decide) 5
    · have hposition : byteAt f 26 = byteOf position := h 4 (by decide)
      rw [hposition]
      exact toNat_byteOf (Nat.lt_succ_of_le hp)

theorem claimRecordReads_of_stands {f : List Byte} {slot : Fin 24} {record : Slot} {position : Nat}
    (hfits : (CellData.claimRecord slot record position).Fits)
    (h : Stands f 3 31 (claimRecordBytes slot record position)) : ClaimRecordReads f slot record position := by
  obtain ⟨hbox, hremaining, hposition⟩ := hfits
  rw [claimRecordBytes_eq] at h
  have hclaim := h.tail.tail.tail
  have hbehind := hclaim.behind
  rw [length_claimBytes] at hbehind
  obtain ⟨htime, hwait⟩ := hbehind.halfNat (by decide) hremaining
  refine ⟨?_, ?_, ?_, claimBytes_reads (by decide) _ hbox hclaim, htime, waitBytes_reads hposition _ hwait,
    hwait.ends (by rw [length_waitBytes])⟩
  · rw [h.head (by decide)]; exact toNat_slotByte _
  · rw [h.tail.head (by decide)]; exact toNat_genByte _
  · rw [h.tail.tail.head (by decide)]; exact toNat_stateByte _

/-! ### READ_ARM -/

/-- The verdict and the two boxes of READ_ARM, 0 where they are absent (R186). -/
def reportBytes : Option LastReport → List Byte
  | none => List.replicate 25 0
  | some l => l.verdict.byte :: (l.swept.bytes ++ boxBytesOr0 l.binPart)

theorem length_reportBytes (l : Option LastReport) : (reportBytes l).length = 25 := by
  rcases l with _ | ⟨swept, _ | part, verdict⟩ <;> rfl

/-- A valid record's bin part is empty: the flag of READ_ARM (R186). -/
def partEmpty (l : Option LastReport) : Bool :=
  match l with
  | none => false
  | some l => l.binPart.isNone

theorem partEmpty_iff (l : Option LastReport) : partEmpty l = true ↔ ∃ r, l = some r ∧ r.binPart = none := by
  cases l <;> simp [partEmpty]

theorem armRecordBytes_eq (g : Guard) (r : ReportRecord) :
    armRecordBytes g r =
      byteOf (g.state.code + 8 * forcedCode r.forced + 32 * r.requested.code + 64 * r.inUse.code +
          128 * r.pending.toNat) ::
        g.causes.byte ::
        byteOf (bitmap [g.resumeRequested, g.stopAcknowledged, r.fresh, r.last.isSome, partEmpty r.last]) ::
        reportBytes r.last := by
  unfold armRecordBytes
  cases r.last <;> rfl

theorem armRecordByte_reads (g : Guard) (r : ReportRecord) :
    let b := byteOf (g.state.code + 8 * forcedCode r.forced + 32 * r.requested.code + 64 * r.inUse.code +
      128 * r.pending.toNat)
    (b.extractLsb' 0 3).toNat = g.state.code ∧ (b.extractLsb' 3 2).toNat = forcedCode r.forced ∧
      (b.getLsbD 5).toNat = r.requested.code ∧ (b.getLsbD 6).toNat = r.inUse.code ∧ b.getLsbD 7 = r.pending := by
  have hcode (n : ProfileName) : n.code = (n == .reduced).toNat := by cases n <;> rfl
  have hstate : g.state.code ≤ 3 := by cases g.state <;> decide
  have hforced : forcedCode r.forced ≤ 2 := by
    rcases r.forced with _ | n
    · decide
    · cases n <;> decide
  have hrequested := (r.requested == .reduced).toNat_le
  have hused := (r.inUse == .reduced).toNat_le
  have hpending := r.pending.toNat_le
  rw [hcode r.requested, hcode r.inUse]
  have hbyte : g.state.code + 8 * forcedCode r.forced + 32 * (r.requested == .reduced).toNat +
      64 * (r.inUse == .reduced).toNat + 128 * r.pending.toNat < 256 := by omega
  refine ⟨?_, ?_, congrArg Bool.toNat (bit_byteOf hbyte (by omega)), congrArg Bool.toNat (bit_byteOf hbyte (by omega)),
    bit_byteOf hbyte (by omega)⟩
  · rw [field_byteOf hbyte]; omega
  · rw [field_byteOf hbyte]; omega

/-- Bytes 19 to 30 of READ_ARM read back as a bin part, which may be empty. -/
def PartReads (f : List Byte) : Option Box → Prop
  | none => zeroBytes f 19 31
  | some b => boxOf (boxAt f 19) = b

/-- Bytes 6 to 30 of READ_ARM read back as what the last report left. -/
def ReportReads (f : List Byte) : Option LastReport → Prop
  | none => zeroBytes f 6 31
  | some l => byteAt f 6 = l.verdict.byte ∧ boxOf (boxAt f 7) = l.swept ∧ PartReads f l.binPart

theorem partBytes_reads {f : List Byte} (part : Option Box) (hpart : ∀ b, part = some b → b.inFields)
    (h : Stands f 19 31 (boxBytesOr0 part)) : PartReads f part := by
  cases part with
  | none => exact h.nil_append.zeros (m := 12) (Nat.le_refl _) (Nat.le_refl _)
  | some b => exact (h.nil_append.box (by decide) (hpart b rfl)).1

theorem reportBytes_reads {f : List Byte} (r : Option LastReport)
    (hr : ∀ l, r = some l → l.swept.inFields ∧ ∀ b, l.binPart = some b → b.inFields)
    (h : Stands f 6 31 (reportBytes r)) : ReportReads f r := by
  cases r with
  | none => exact h.nil_append.zeros (m := 25) (Nat.le_refl _) (Nat.le_refl _)
  | some l =>
    obtain ⟨hswept, hpart⟩ := hr l rfl
    obtain ⟨hbox, hrest⟩ := h.tail.box (by decide) hswept
    exact ⟨h.head (by decide), hbox, partBytes_reads l.binPart hpart hrest⟩

theorem armRecordReads_of_stands {f : List Byte} {g : Guard} {r : ReportRecord} (hfits : (CellData.armRecord g r).Fits)
    (h : Stands f 3 31 (armRecordBytes g r)) : ArmRecordReads f g r := by
  rw [armRecordBytes_eq] at h
  obtain ⟨hstate, hforced, hrequested, hused, hpending⟩ := armRecordByte_reads g r
  unfold ArmRecordReads
  rw [show byteAt f 3 = _ from h.head (by decide), show byteAt f 4 = _ from h.tail.head (by decide),
    show byteAt f 5 = _ from h.tail.tail.head (by decide)]
  refine ⟨hstate, hforced, hrequested, hused, hpending, rfl, getLsbD_bitmap _ (by decide), getLsbD_bitmap _ (by decide),
    getLsbD_bitmap _ (by decide), getLsbD_bitmap _ (by decide), ?_,
    rest_bitmap (n := 5) rfl (by decide) 3,
    reportBytes_reads r.last hfits h.tail.tail.tail⟩
  rw [getLsbD_bitmap _ (by decide)]
  exact partEmpty_iff r.last

end Sys2Proof.Machine
end

section
/-! PROOFS. The other replies of the cell controller (section 9.6), and with them the bytes of every reply: O14. -/

namespace Sys2Proof.Machine

theorem bitmap_reads {l : List Bool} {n : Nat} {v : Bool} (hl : l.length = 8) (h : l[n]? = some v) :
    (byteOf (bitmap l)).getLsbD n = v := by
  obtain ⟨hn, -⟩ := List.getElem?_eq_some_iff.1 h
  rw [getLsbD_bitmap l (by omega), List.getD_eq_getElem?_getD, h]
  rfl

/-! ### MAP_READ and GROUP_SET -/

theorem mapCode_lt (g : Option Group) : mapCode g < 4 := by
  rcases g with _ | g
  · decide
  · cases g <;> decide

theorem mapCodes_reads {f : List Byte} {codes : List (Option Group)} (hfits : codes.length = 64)
    (h : Stands f 3 31 (packPairs (codes.map mapCode))) {i : Nat} {g : Option Group} (hi : codes[i]? = some g) :
    ((byteAt f (3 + i / 4)).extractLsb' (2 * (i % 4)) 2).toNat = mapCode g := by
  obtain ⟨hlt, -⟩ := List.getElem?_eq_some_iff.1 hi
  rw [h (i / 4) (by omega)]
  refine packPairs_reads _ ?_ ?_ ?_
  · rw [List.length_map, hfits]; decide
  · intro x hx
    obtain ⟨c, -, rfl⟩ := List.mem_map.1 hx
    exact mapCode_lt c
  · rw [List.getElem?_map, hi]; rfl

/-- Two maps of three bits, one in each half of a byte, are one map with bit 3 clear. -/
theorem groupsByte_eq (flags activity : PerGroup Bool) :
    bitmap flags.flagList + 16 * bitmap activity.flagList =
      bitmap [flags.g1, flags.g2, flags.g3, false, activity.g1, activity.g2, activity.g3] := by
  simp only [PerGroup.flagList, bitmap, Bool.toNat_false]
  omega

theorem groups_reads {f : List Byte} {flags activity : PerGroup Bool}
    (h : Stands f 3 31 (CellData.groups flags activity).bytes) : CellDataReads f (.groups flags activity) := by
  have hbyte := h.head (by decide)
  rw [groupsByte_eq] at hbyte
  refine ⟨fun g => ?_, fun g => ?_, ?_, ?_, h.ends (Nat.le_refl _)⟩
  · rw [hbyte, getLsbD_bitmap _ (by cases g <;> decide)]
    cases g <;> rfl
  · rw [hbyte, getLsbD_bitmap _ (by cases g <;> decide)]
    cases g <;> rfl
  · rw [hbyte]; exact getLsbD_bitmap _ (by decide)
  · rw [hbyte]; exact getLsbD_bitmap _ (by decide)

/-! ### READ_LINES -/

theorem functionCode_lt (x : LineFunction) : x.code < 16 := by
  cases x with
  | guardIn g => exact (mapCode_lt (some g)).trans (by decide)
  | permitMirror p | waitOut p => cases p <;> decide
  | unused | estopIn | alertMirror | generalOut => decide

theorem lines_reads {f : List Byte} {readings : List LineReading} {estop : Bool} (hfits : readings.length = 8)
    (h : Stands f 3 31 (CellData.lines readings estop).bytes) : CellDataReads f (.lines readings estop) := by
  have hlen : (packNibbles (readings.map fun r => r.func.code)).length = 4 := by
    rw [length_packNibbles, List.length_map, hfits]
  simp only [CellData.bytes, List.cons_append, List.nil_append] at h
  have hbehind := h.tail.tail.behind
  rw [hlen] at hbehind
  refine ⟨fun n r hn => ?_, ?_, hbehind.tail.tail.ends (Nat.le_refl _)⟩
  · obtain ⟨hlt, -⟩ := List.getElem?_eq_some_iff.1 hn
    rw [h.head (by decide), h.tail.head (by decide), hbehind.head (by decide)]
    refine ⟨?_, ?_, ?_, ?_⟩
    · rw [bitmap_reads (v := r.raw == .high) (by simpa using hfits) (by rw [List.getElem?_map, hn]; rfl)]
      simp
    · exact bitmap_reads (by simpa using hfits) (by rw [List.getElem?_map, hn]; rfl)
    · rw [h.tail.tail (n / 2) (by omega), byteAt_append_left (by omega)]
      refine packNibbles_reads _ ?_ (by rw [List.getElem?_map, hn]; rfl)
      intro x hx
      obtain ⟨y, -, rfl⟩ := List.mem_map.1 hx
      exact functionCode_lt y.func
    · exact bitmap_reads (by simpa using hfits) (by rw [List.getElem?_map, hn]; rfl)
  · rw [show byteAt f 10 = _ from hbehind.tail.head (by decide)]
    exact toNat_byteOf (estop.toNat_le.trans_lt (by decide))

/-! ### READ_COUNTERS -/

theorem errorBytes_reads {f rest : List Byte} {e : Nat} (errors : List Nat) :
    ∀ i, Stands f i e (errors.map byteOf ++ rest) → ∀ {n x : Nat}, i + n < e → errors[n]? = some x →
      byteAt f (i + n) = byteOf x := by
  intro i h n x hi hn
  obtain ⟨hlt, -⟩ := List.getElem?_eq_some_iff.1 hn
  rw [h n hi, byteAt_append_left (by rwa [List.length_map])]
  unfold byteAt
  rw [List.getD_eq_getElem?_getD, List.getElem?_map, hn]
  rfl

theorem accumulatorBytes_reads {f rest : List Byte} {e : Nat} (accumulators : List Accumulator) :
    ∀ i, Stands f i e (accumulators.flatMap (fun a => unsigned24 a.value) ++ rest) →
      ∀ {n : Nat} {a : Accumulator}, i + 3 * n + 2 < e → accumulators[n]? = some a →
        byteAt f (i + 3 * n) = byteOf a.value ∧ byteAt f (i + 1 + 3 * n) = byteOf (a.value / 256) ∧
          byteAt f (i + 2 + 3 * n) = byteOf (a.value / 65536) := by
  induction accumulators with
  | nil => intro i _ n a _ hn; simp at hn
  | cons b bs ih =>
    intro i h n a hi hn
    cases n with
    | zero =>
      cases hn
      exact ⟨h.head (by omega), h.tail.head (by omega), h.tail.tail.head (by omega)⟩
    | succ n =>
      have hrest := ih (i + 3) h.tail.tail.tail (n := n) (a := a) (by omega) hn
      have h0 : i + 3 * (n + 1) = i + 3 + 3 * n := by omega
      have h1 : i + 1 + 3 * (n + 1) = i + 3 + 1 + 3 * n := by omega
      have h2 : i + 2 + 3 * (n + 1) = i + 3 + 2 + 3 * n := by omega
      rw [h0, h1, h2]
      exact hrest

theorem length_accumulatorBytes (accumulators : List Accumulator) :
    (accumulators.flatMap fun a => unsigned24 a.value).length = 3 * accumulators.length := by
  induction accumulators with
  | nil => rfl
  | cons a as ih =>
    rw [List.flatMap_cons, List.length_append, ih, List.length_cons]
    show 3 + _ = _
    omega

theorem counters_reads {f : List Byte} {errors : List Nat} {accumulators : List Accumulator}
    (hfits : (CellData.counters errors accumulators).Fits)
    (h : Stands f 3 31 (CellData.counters errors accumulators).bytes) :
    CellDataReads f (.counters errors accumulators) := by
  obtain ⟨herrors, hsmall, haccs, hvalues⟩ := hfits
  simp only [CellData.bytes, List.append_assoc] at h
  have hvaluesAt := h.behind
  rw [List.length_map, herrors] at hvaluesAt
  have henables := hvaluesAt.behind
  rw [length_accumulatorBytes, haccs] at henables
  have hbyte : byteAt f 18 = byteOf (bitmap (accumulators.map fun a => a.enabled)) := henables.head (by decide)
  refine ⟨fun n x hn => ?_, fun n a hn => ?_, ?_, henables.tail.ends (Nat.le_refl _)⟩
  · obtain ⟨hlt, -⟩ := List.getElem?_eq_some_iff.1 hn
    rw [errorBytes_reads errors 3 h (by omega) hn]
    exact toNat_byteOf (Nat.lt_succ_of_le (hsmall x (List.mem_of_getElem? hn)))
  · obtain ⟨hlt, -⟩ := List.getElem?_eq_some_iff.1 hn
    obtain ⟨h0, h1, h2⟩ := accumulatorBytes_reads accumulators 6 hvaluesAt (n := n) (by omega) hn
    refine ⟨?_, ?_⟩
    · rw [h0, h1, h2]
      exact unsigned24_value (hvalues a (List.mem_of_getElem? hn))
    · rw [hbyte, getLsbD_bitmap _ (by omega), List.getD_eq_getElem?_getD, List.getElem?_map, hn]
      rfl
  · rw [hbyte]
    exact rest_bitmap (n := 4) (by rw [List.length_map, haccs]) (by decide) 4

/-! ### Every reply -/

theorem length_cellDataBytes {d : CellData} (h : d.Fits) : d.bytes.length ≤ 28 := by
  cases d with
  | empty | identity | calBad | cellsTouched | groups | purged | outputs | events =>
    simp [CellData.bytes, unsigned16, halfBytes]
  | mapCodes codes =>
    have hlen : codes.length = 64 := h
    simp [CellData.bytes, length_packPairs, hlen]
  | claimRecord slot record position =>
    simp [CellData.bytes, claimRecordBytes_eq, length_claimBytes, length_waitBytes, unsigned16, halfBytes]
  | armRecord guard record => simp [CellData.bytes, armRecordBytes_eq, length_reportBytes]
  | lines readings estop =>
    have hlen : readings.length = 8 := h
    simp [CellData.bytes, length_packNibbles, hlen]
  | counters errors accumulators =>
    obtain ⟨herrors, -, haccs, -⟩ := h
    simp only [CellData.bytes, List.length_append, List.length_map, length_accumulatorBytes, herrors, haccs,
      List.length_singleton, Nat.reduceMul, Nat.reduceAdd, Nat.reduceLeDiff]

/-- Each layout of section 9.6, read off from byte 3 on. -/
theorem cellDataReads_of_stands {f : List Byte} {d : CellData} (hd : d.Fits) (h : Stands f 3 31 d.bytes) :
    CellDataReads f d := by
  cases d with
  | empty => exact h.ends (Nat.le_refl _)
  | identity => exact ⟨h.head (by decide), h.tail.head (by decide), h.ends (Nat.le_refl _)⟩
  | calBad arm =>
    refine ⟨?_, h.ends (Nat.le_refl _)⟩
    rw [h.head (by decide)]
    exact toNat_armByte arm
  | cellsTouched n =>
    obtain ⟨hhalf, hrest⟩ := h.nil_append.halfNat (by decide) hd
    exact ⟨hhalf, hrest.ends (Nat.le_refl _)⟩
  | mapCodes codes =>
    have hlen : codes.length = 64 := hd
    refine ⟨fun i g => mapCodes_reads hlen h, h.ends ?_⟩
    show 3 + (packPairs _).length ≤ 19
    rw [length_packPairs, List.length_map, hlen]
  | groups flags activity => exact groups_reads h
  | purged n =>
    refine ⟨?_, h.ends (Nat.le_refl _)⟩
    rw [h.head (by decide)]
    exact toNat_byteOf (Nat.lt_succ_of_le hd)
  | claimRecord slot record position => exact claimRecordReads_of_stands hd h
  | armRecord guard record => exact armRecordReads_of_stands hd h
  | outputs values =>
    refine ⟨fun n v hn => ?_, h.ends (Nat.le_refl _)⟩
    rw [h.head (by decide)]
    exact bitmap_reads hd hn
  | lines readings estop => exact lines_reads hd h
  | events flags mask =>
    obtain ⟨hflags, hrest⟩ := h.half (by decide)
    obtain ⟨hmask, hrest⟩ := hrest.nil_append.half (by decide)
    exact ⟨hflags, hmask, hrest.ends (Nat.le_refl _)⟩
  | counters errors accumulators => exact counters_reads hd h

theorem armReply_reads (r : ArmReply) (h : r.data.Fits) :
    r.bytes.length = 16 ∧ byteAt r.bytes 15 = crc8 (r.bytes.take 15) ∧ byteAt r.bytes 0 = r.echo ∧
      byteAt r.bytes 1 = r.status.byte ∧ (byteAt r.bytes 2).toNat = r.result.code ∧ NoticeReads r.bytes r.notice ∧
      ArmDataReads r.bytes r.data := by
  have hlen : ([r.echo, r.status.byte, byteOf r.result.code] ++ noticeBytes r.notice ++ r.data.bytes).length < 16 := by
    have hdata := length_armDataBytes h
    simp only [List.length_append, List.length_cons, List.length_nil, length_noticeBytes]
    omega
  have hstands := stands_sealFrame hlen
  rw [List.append_assoc] at hstands
  have hnotice : Stands r.bytes 3 15 (noticeBytes r.notice ++ r.data.bytes) := by
    rw [ArmReply.bytes, List.append_assoc]
    exact hstands.tail.tail.tail
  have hdata := hnotice.behind
  rw [length_noticeBytes] at hdata
  refine ⟨length_sealFrame hlen, crc_sealFrame hlen, hstands.head (by decide), hstands.tail.head (by decide), ?_,
    noticeReads_of_stands r.notice r.data.bytes (by decide) hnotice, armDataReads_of_stands h hdata⟩
  rw [show byteAt r.bytes 2 = _ from hstands.tail.tail.head (by decide)]
  exact toNat_resultByte r.result

theorem cellReply_reads (r : CellReply) (h : r.data.Fits) :
    r.bytes.length = 32 ∧ byteAt r.bytes 31 = crc8 (r.bytes.take 31) ∧ byteAt r.bytes 0 = r.echo ∧
      byteAt r.bytes 1 = r.flagByte ∧ (byteAt r.bytes 2).toNat = r.result.code ∧ CellDataReads r.bytes r.data := by
  have hlen : ([r.echo, r.flagByte, byteOf r.result.code] ++ r.data.bytes).length < 32 := by
    have hdata := length_cellDataBytes h
    simp only [List.length_append, List.length_cons, List.length_nil]
    omega
  have hstands := stands_sealFrame hlen
  refine ⟨length_sealFrame hlen, crc_sealFrame hlen, hstands.head (by decide), hstands.tail.head (by decide), ?_,
    cellDataReads_of_stands h hstands.tail.tail.tail⟩
  rw [show byteAt r.bytes 2 = _ from hstands.tail.tail.head (by decide)]
  exact toNat_resultByte r.result

/-- Settles O14: the codes by evaluation, the status bytes bit by bit, and each reply by the bytes that stand in it. -/
theorem replyByteLayouts : Obligations.ReplyByteLayouts :=
  ⟨by decide, ArmStatus.byte_reads, Verdict.byte_reads, CellReply.flagByte_reads, CauseSet.byte_reads, armReply_reads,
    cellReply_reads⟩

end Sys2Proof.Machine
end

section
/-! PROOFS. What the laws of the Claim Table ask of a slot, changes that leave it, and the laws across the event of a
retirement (R53 to R58, R61, R70). -/

namespace Sys2Proof.Machine

/-! ### What a slot stands for -/

/-- What a slot holds but for its timer and for which live state its claim is in: the claim, and while it waits its
blocker set. -/
def SlotBody.standing : SlotBody → Option (ClaimData × Option Blockers)
  | .free => none
  | .waiting c _ bl => some (c, some bl)
  | .granted c _ => some (c, none)
  | .occupied c => some (c, none)
  | .releasing c => some (c, none)

theorem standing_eq_live_iff (b : SlotBody) (c : ClaimData) : b.standing = some (c, none) ↔ b.live = some c := by
  cases b <;> simp [SlotBody.standing, SlotBody.live]

theorem standing_eq_waiting_iff (b : SlotBody) (c : ClaimData) (bl : Blockers) :
    b.standing = some (c, some bl) ↔ ∃ left, b = .waiting c left bl := by
  cases b <;> simp [SlotBody.standing]

theorem standing_eq_none_iff (b : SlotBody) : b.standing = none ↔ b = .free := by
  cases b <;> simp [SlotBody.standing]

theorem live_of_standing {b b' : SlotBody} (h : b'.standing = b.standing) : b'.live = b.live :=
  Option.ext fun c => by rw [← standing_eq_live_iff, ← standing_eq_live_iff, h]

theorem waitingClaim_eq_standing (b : SlotBody) :
    b.waitingClaim = b.standing.bind fun x => x.2.map fun _ => x.1 := by
  cases b <;> rfl

theorem waitingClaim_of_standing {b b' : SlotBody} (h : b'.standing = b.standing) : b'.waitingClaim = b.waitingClaim := by
  rw [waitingClaim_eq_standing, waitingClaim_eq_standing, h]

theorem standing_tick (b : SlotBody) : b.tick.standing = b.standing := by cases b <;> rfl

theorem standing_of_live {b b' : SlotBody} {c : ClaimData} (h : b.live = some c) (h' : b'.live = some c) :
    b'.standing = b.standing := by
  rw [(standing_eq_live_iff b c).2 h, (standing_eq_live_iff b' c).2 h']

/-! ### Changes that leave the table -/

/-- A change that leaves what the laws of the Claim Table speak of: the claims that stand, the wait list, and all that
screening asks. A field left out of a proof is one that the change does not touch. -/
structure SameTable (s t : State) : Prop where
  claims : ∀ k, (t.body k).standing = (s.body k).standing := by exact fun _ => rfl
  waitList : t.waitList = s.waitList := by rfl
  timing : t.timing = s.timing := by rfl
  keepOut : t.keepOut = s.keepOut := by rfl
  active : ∀ g, t.groupActive g = s.groupActive g := by exact fun _ => rfl
  /-- The change does not enter CONFIG, where the table is torn down. -/
  mode : t.mode = .config → s.mode = .config := by exact id
  pending : t.pending = s.pending := by rfl

theorem SameTable.refl (s : State) : SameTable s s := {}

theorem SameTable.trans {s t u : State} (h : SameTable s t) (h' : SameTable t u) : SameTable s u where
  claims k := (h'.claims k).trans (h.claims k)
  waitList := h'.waitList.trans h.waitList
  timing := h'.timing.trans h.timing
  keepOut := h'.keepOut.trans h.keepOut
  active g := (h'.active g).trans (h.active g)
  mode hm := h.mode (h'.mode hm)
  pending := h'.pending.trans h.pending

theorem SameTable.live {s t : State} (h : SameTable s t) (k : Fin 24) : (t.body k).live = (s.body k).live :=
  live_of_standing (h.claims k)

theorem SameTable.waitingClaim {s t : State} (h : SameTable s t) (k : Fin 24) :
    (t.body k).waitingClaim = (s.body k).waitingClaim := waitingClaim_of_standing (h.claims k)

theorem SameTable.body_free {s t : State} (h : SameTable s t) {k : Fin 24} (hk : s.body k = .free) :
    t.body k = .free := by
  rw [← standing_eq_none_iff, h.claims, standing_eq_none_iff]; exact hk

/-- Screening asks of a slot only what it stands for. -/
theorem blocksCandidate_congr {s t : State} {k : Fin 24} (hl : (t.body k).live = (s.body k).live)
    (hw : (t.body k).waitingClaim = (s.body k).waitingClaim) (ht : t.timing = s.timing) (p : Arm) (box : Box)
    (f : Fin 24 → Bool) : t.blocksCandidate p box f k = s.blocksCandidate p box f k := by
  rw [Bool.eq_iff_iff, blocksCandidate_iff, blocksCandidate_iff, hl, hw, ht]

theorem aheadInList_congr {s t : State} (h : t.waitList = s.waitList) (k : Fin 24) :
    t.aheadInList k = s.aheadInList k := by
  funext j
  unfold State.aheadInList
  rw [h]

/-! ### The live claims of different arms -/

/-- No live claim joins the table. -/
theorem liveApart_of_live {s t : State} (ht : t.timing = s.timing)
    (hl : ∀ k c, (t.body k).live = some c → (s.body k).live = some c) (hs : s.LiveApart) : t.LiveApart := by
  intro j k c d hc hd hne
  rw [ht]
  exact hs j k c d (hl j c hc) (hl k d hd) hne

/-- One claim comes to live in slot k, clear of the other arm's live claims. -/
theorem liveApart_of_new {s t : State} {k : Fin 24} {c : ClaimData} (ht : t.timing = s.timing)
    (hl : ∀ j d, j ≠ k → (t.body j).live = some d → (s.body j).live = some d) (hk : (t.body k).live = some c)
    (hnew : ∀ j d, (s.body j).live = some d → d.owner = c.owner.other →
      d.box.conflicts s.timing.clearance c.box = false) (hs : s.LiveApart) : t.LiveApart := by
  have hclear : ∀ j d, j ≠ k → (t.body j).live = some d → d.owner ≠ c.owner →
      d.box.conflicts s.timing.clearance c.box = false := fun j d hj hd hne =>
    hnew j d (hl j d hj hd) ((eq_or_eq_other c.owner d.owner).resolve_left hne)
  intro i j d e hd he hne
  rw [ht]
  by_cases hi : i = k
  · subst hi
    rw [hk] at hd
    cases hd
    by_cases hj : j = i
    · subst hj
      rw [hk] at he
      cases he
      exact absurd rfl hne
    · rw [conflicts_comm]
      exact hclear j e hj he hne.symm
  · by_cases hj : j = k
    · subst hj
      rw [hk] at he
      cases he
      exact hclear i d hi hd hne
    · exact hs i j d e (hl i d hi hd) (hl j e hj he) hne

/-- A screening that finds nothing finds no live claim of the other arm in conflict (R53). -/
theorem clear_of_screen {s : State} {c : ClaimData} {ahead : Fin 24 → Bool}
    (h : (s.screen c.owner c.box ahead).isEmpty = true) (j : Fin 24) (d : ClaimData) (hd : (s.body j).live = some d)
    (ho : d.owner = c.owner.other) : d.box.conflicts s.timing.clearance c.box = false := by
  obtain ⟨hnone, -⟩ := (screen_isEmpty_iff _ _ _ _).1 h
  refine Bool.eq_false_iff.2 fun hconf => Bool.eq_false_iff.1 (hnone j) ?_
  exact (blocksCandidate_iff _ _ _ _ _).2 (.inl ⟨d, hd, ho, hconf⟩)

/-- The walk grants no claim that a live claim of the other arm conflicts with (R61, R70). -/
theorem liveApart_rescreenFrom (rest : List (Fin 24)) : ∀ (ahead : List (Fin 24)) (s : State), s.LiveApart →
    (rescreenFrom ahead rest s).LiveApart := by
  induction rest with
  | nil => exact fun _ _ h => h
  | cons k rest ih =>
    intro ahead s hs
    obtain ⟨c, left, bl, -, hempty, he⟩ | ⟨c, left, bl, -, -, he⟩ | ⟨-, he⟩ := rescreenFrom_cons ahead k rest s
    · rw [he]
      refine ih _ _ (liveApart_of_new (k := k) (c := c) (grantWaiting_frame s k c).1.timing (fun j d hj hd => ?_) ?_
        (clear_of_screen hempty) hs)
      · rwa [body_grantWaiting, if_neg hj] at hd
      · rw [body_grantWaiting, if_pos rfl]; rfl
    · rw [he]
      refine ih _ _ (liveApart_of_live (s := s) rfl (fun j d hd => ?_) hs)
      rw [State.body_setBody] at hd
      split at hd
      · cases hd
      · exact hd
    · rw [he]
      exact ih _ _ hs

theorem liveApart_rescreen {s : State} (hs : s.LiveApart) : s.rescreen.LiveApart := liveApart_rescreenFrom _ _ s hs

theorem liveApart_retireAll {s : State} {ks : List (Fin 24)} (hks : s.Retirable ks) (n : Option NoticeKind) (r : Bool)
    (hs : s.LiveApart) : (s.retireAll ks n r).LiveApart := by
  refine liveApart_of_live (retireAll_frame ks n r s).timing (fun k c hc => ?_) hs
  rw [body_retireAll ks n r s hks] at hc
  split at hc
  · cases hc
  · exact hc

/-! ### The wait list -/

/-- The claims that a test names go on waiting, and the others leave the list and wait no more. -/
theorem waitListExact_of_filter {s t : State} (f : Fin 24 → Bool) (hlist : t.waitList = s.waitList.filter f)
    (hwait : ∀ k, (t.body k).waitingClaim = if f k = true then (s.body k).waitingClaim else none)
    (hs : s.WaitListExact) : t.WaitListExact := by
  obtain ⟨hnodup, hmem, hone, hsorted⟩ := hs
  have hkept : ∀ {k c}, (t.body k).waitingClaim = some c → (s.body k).waitingClaim = some c := by
    intro k c hc
    rw [hwait] at hc
    split at hc
    · exact hc
    · cases hc
  refine ⟨hlist ▸ hnodup.filter f, fun k => ?_, fun j k c d hc hd => hone j k c d (hkept hc) (hkept hd), ?_⟩
  · rw [hlist, List.mem_filter, hmem, hwait]
    split
    · next h => exact and_iff_left h
    · next h => exact ⟨fun hk => absurd hk.2 h, nofun⟩
  · rw [hlist]
    exact (hsorted.filter f).imp fun hjk c d hc hd => hjk c d (hkept hc) (hkept hd)

theorem waitListExact_of_same {s t : State} (hlist : t.waitList = s.waitList)
    (hwait : ∀ k, (t.body k).waitingClaim = (s.body k).waitingClaim) (hs : s.WaitListExact) : t.WaitListExact :=
  waitListExact_of_filter (fun _ => true) (by rw [hlist, List.filter_true]) (fun k => by rw [hwait, if_pos rfl]) hs

theorem waitListExact_retireAll {s : State} {ks : List (Fin 24)} (hks : s.Retirable ks) (n : Option NoticeKind)
    (r : Bool) (hs : s.WaitListExact) : (s.retireAll ks n r).WaitListExact := by
  refine waitListExact_of_filter (fun k => !ks.contains k) (waitList_retireAll ks n r s hks) (fun k => ?_) hs
  rw [body_retireAll ks n r s hks]
  by_cases hk : k ∈ ks <;> simp [hk, SlotBody.waitingClaim]

/-! ### The laws after an event of the table -/

section
variable {s t : State} {ks : List (Fin 24)} {kind : Option NoticeKind} {r : Bool} {flags : StickyFlags → StickyFlags}

theorem TableEvent.body_retired (h : TableEvent s t ks kind r flags) {k : Fin 24} (hk : k ∈ ks) :
    t.body k = .free := by
  have hslot : t.slot k = { gen := (s.slot k).gen + 1, body := .free } := h.retired k hk
  unfold State.body
  rw [hslot]

/-- A claim that waits after the event waited before it, and is not one that the event retires. -/
theorem TableEvent.waited (h : TableEvent s t ks kind r flags) {k : Fin 24} {c : ClaimData} {left : Nat}
    {bl : Blockers} (hb : t.body k = .waiting c left bl) : k ∉ ks ∧ ∃ bl', s.body k = .waiting c left bl' := by
  have hk : k ∉ ks := fun hk => by rw [h.body_retired hk] at hb; cases hb
  obtain ⟨-, hsame | ⟨d, l, bl', hs, ⟨bl'', ht⟩ | ht⟩⟩ := h.others k hk
  · exact ⟨hk, bl, hsame ▸ hb⟩
  · rw [ht] at hb
    cases hb
    exact ⟨hk, bl', hs⟩
  · rw [ht] at hb
    cases hb

theorem TableEvent.waitingClaim (h : TableEvent s t ks kind r flags) (k : Fin 24) :
    (t.body k).waitingClaim =
      if (!(ks.contains k || ((s.body k).waitingClaim.isSome && (t.body k).waitingClaim.isNone))) = true then
        (s.body k).waitingClaim
      else none := by
  by_cases hk : k ∈ ks
  · rw [h.body_retired hk]
    simp [hk, SlotBody.waitingClaim]
  · have hcontains : ks.contains k = false := by simpa using hk
    rw [hcontains]
    obtain ⟨-, hsame | ⟨d, l, bl', hs, ⟨bl'', ht⟩ | ht⟩⟩ := h.others k hk
    · rw [hsame]
      cases (s.body k).waitingClaim <;> rfl
    · rw [hs, ht]
      rfl
    · rw [hs, ht]
      rfl

theorem TableEvent.waitListExact (h : TableEvent s t ks kind r flags) (hs : s.WaitListExact) : t.WaitListExact :=
  waitListExact_of_filter _ h.waitList h.waitingClaim hs

/-- Slots that still wait stand ahead of one another as they did. -/
theorem TableEvent.stillAhead_eq (h : TableEvent s t ks kind r flags) {k : Fin 24}
    (hk : (t.body k).waitingClaim.isSome = true) {j : Fin 24} (hj : (t.body j).waitingClaim.isSome = true) :
    stillAhead s t k j = t.aheadInList k j := by
  have hkept : ∀ i, (t.body i).waitingClaim.isSome = true →
      (!(ks.contains i || ((s.body i).waitingClaim.isSome && (t.body i).waitingClaim.isNone))) = true := by
    intro i hi
    have hclaim := h.waitingClaim i
    by_contra hout
    rw [if_neg hout] at hclaim
    rw [hclaim] at hi
    cases hi
  have hmem : ∀ i, (t.body i).waitingClaim.isSome = true →
      (i ∈ t.waitList.takeWhile (fun x => x != k) ↔ i ∈ s.waitList.takeWhile fun x => x != k) := by
    intro i hi
    rw [h.waitList, takeWhile_filter_ne _ k (hkept k hk), List.mem_filter]
    exact and_iff_left (hkept i hi)
  unfold stillAhead State.aheadInList
  rw [hj, Bool.and_true, Bool.eq_iff_iff, List.contains_iff_mem, List.contains_iff_mem]
  exact (hmem j hj).symm

/-- The walk leaves every blocker set as screening would give it, whatever it was before (R56, R70). -/
theorem TableEvent.blockersExact (h : TableEvent s t ks kind r flags) (hs : s.WaitListExact) : t.BlockersExact := by
  intro k c left bl hb
  obtain ⟨-, hmem, -⟩ := hs
  obtain ⟨hk, bl', hs'⟩ := h.waited hb
  have hlist : k ∈ s.waitList := (hmem k).2 (by rw [hs']; rfl)
  have hwait : (t.body k).waitingClaim.isSome = true := by rw [hb]; rfl
  have hscreen : t.screen c.owner c.box (stillAhead s t k) = t.screen c.owner c.box (t.aheadInList k) :=
    screen_eq (fun j => blocksCandidate_ahead_congr fun hj => h.stillAhead_eq hwait hj) rfl
  have hdecided := h.decided k c left bl' hk hlist hs'
  dsimp only at hdecided
  rw [hscreen, hb] at hdecided
  split at hdecided
  · cases hdecided
  · next hne =>
    cases hdecided
    exact ⟨Bool.eq_false_iff.2 hne, rfl⟩

end

theorem waitListExact_rescreen {s : State} (hs : s.WaitListExact) : s.rescreen.WaitListExact :=
  have ⟨hnodup, _⟩ := hs
  (rescreen_event s hnodup).waitListExact hs

end Sys2Proof.Machine
end

section
/-! PROOFS. The laws of the Claim Table across a change of a source of group activity or of the e-stop, with all that
follows within its event (R58, R61, R156 to R161, R168). -/

namespace Sys2Proof.Machine

/-! ### The guard controllers' part, which leaves the table -/

theorem sameTable_updSticky (s : State) (f : StickyFlags → StickyFlags) : SameTable s (s.updSticky f) := {}

theorem sameTable_enterStopped (s : State) (p : Arm) (causes : List StopCause) :
    SameTable s (s.enterStopped p causes) := {}

theorem sameTable_stopArm (s : State) (p : Arm) (cause : StopCause) : SameTable s (s.stopArm p cause) := by
  unfold State.stopArm
  cases s.armState p with
  | run => exact sameTable_enterStopped s p _
  | stopped => exact {}
  | detached | lost => exact {}

theorem sameTable_resumeCheck (s : State) (p : Arm) : SameTable s (s.resumeCheck p) := by
  unfold State.resumeCheck
  dsimp only
  split <;> exact {}

theorem sameTable_keepIntrusion (s : State) (p : Arm) : SameTable s (s.keepIntrusion p) := by
  unfold State.keepIntrusion
  dsimp only
  split <;> exact {}

theorem sameTable_guardActivate (s : State) (g : Group) (p : Arm) : SameTable s (s.guardActivate g p) := by
  unfold State.guardActivate
  split
  · exact sameTable_stopArm s p _
  · exact .refl s

theorem sameTable_estopEvent (s : State) (before : Bool) : SameTable s (s.estopEvent before) := by
  unfold State.estopEvent
  split
  · exact .refl s
  · split
    · exact (sameTable_resumeCheck s .a).trans (sameTable_resumeCheck _ .b)
    · exact (sameTable_stopArm s .a _).trans (sameTable_stopArm _ .b _)

/-- What a group's event does with the table: nothing where its activity is as it was or outside device RUN, and
otherwise a re-screen at its fall and the table's part in its activation at its rise (R156, R158, R161, R162). -/
theorem groupEvent_cases (s : State) (before : Bool) (g : Group) :
    ((s.mode = .config ∨ before = s.groupActive g) ∧ s.groupEvent before g = s) ∨
    (s.groupActive g = false ∧ SameTable s.rescreen (s.groupEvent before g)) ∨
    (s.mode = .run ∧ s.groupActive g = true ∧ SameTable (s.tableActivate g) (s.groupEvent before g)) := by
  cases hm : s.mode with
  | config => exact .inl ⟨.inl rfl, groupEvent_config hm before g⟩
  | run =>
    by_cases hsame : before = s.groupActive g
    · exact .inl ⟨.inr hsame, groupEvent_same hsame⟩
    · cases hg : s.groupActive g with
      | false =>
        have hb : before = true := by simpa [hg] using hsame
        subst hb
        refine .inr (.inl ⟨rfl, ?_⟩)
        rw [groupEvent_fall hg]
        unfold State.groupDeactivated
        rw [if_pos hm]
        exact (((sameTable_keepIntrusion _ .a).trans (sameTable_keepIntrusion _ .b)).trans
          (sameTable_resumeCheck _ .a)).trans (sameTable_resumeCheck _ .b)
      | true =>
        have hb : before = false := by simpa [hg] using hsame
        subst hb
        refine .inr (.inr ⟨rfl, rfl, ?_⟩)
        rw [groupEvent_rise hg]
        unfold State.groupActivated
        rw [if_pos hm]
        exact (((sameTable_guardActivate _ g .a).trans (sameTable_guardActivate _ g .b)).trans
          (sameTable_keepIntrusion _ .a)).trans (sameTable_keepIntrusion _ .b)

/-! ### The table's part in an activation -/

/-- An activation that revokes no claim lets the waits that touch the group gain it (R158). -/
theorem tableActivate_of_none {s : State} {g : Group} (h : s.revoked g = []) : s.tableActivate g = s.joinGroup g := by
  unfold State.tableActivate
  rw [h]
  rfl

/-- The table in an activation that revokes claims, as the re-screen finds it (R158). -/
def State.activating (s : State) (g : Group) : State :=
  ((s.retireAll (s.revoked g) (some .revoked) false).joinGroup g).flagRevoked

theorem sameTable_activating (s : State) (g : Group) :
    SameTable ((s.retireAll (s.revoked g) (some .revoked) false).joinGroup g) (s.activating g) := by
  unfold State.activating State.flagRevoked
  exact sameTable_updSticky _ _

theorem tableActivate_of_some {s : State} {g : Group} (h : s.revoked g ≠ []) :
    s.tableActivate g = (s.activating g).rescreen := by
  unfold State.tableActivate State.activating
  dsimp only
  rw [if_neg (by simpa using h)]

theorem joinGroup_frame (s : State) (g : Group) : TableFrame s (s.joinGroup g) := by
  unfold State.joinGroup State.mapBodies
  exact TableFrame.of_slots s _ s.waitList

theorem waitList_joinGroup (s : State) (g : Group) : (s.joinGroup g).waitList = s.waitList := by simp [State.joinGroup]

theorem body_joinGroup (s : State) (g : Group) (k : Fin 24) :
    (s.joinGroup g).body k =
      match s.body k with
      | .waiting c left bl =>
        if s.keepOut.touchesGroup c.box g then .waiting c left (bl.addGroup g) else .waiting c left bl
      | other => other := by
  unfold State.joinGroup
  exact State.body_mapBodies s _ k

theorem body_joinGroup_waiting {s : State} {g : Group} {k : Fin 24} {c : ClaimData} {left : Nat} {bl : Blockers}
    (h : s.body k = .waiting c left bl) :
    (s.joinGroup g).body k =
      .waiting c left (if s.keepOut.touchesGroup c.box g = true then bl.addGroup g else bl) := by
  rw [body_joinGroup, h]
  dsimp only
  split <;> rfl

theorem body_joinGroup_of_not_waiting {s : State} {k : Fin 24} (h : (s.body k).waitingClaim = none) (g : Group) :
    (s.joinGroup g).body k = s.body k := by
  rw [body_joinGroup]
  cases hb : s.body k with
  | waiting c left bl => rw [hb] at h; cases h
  | _ => rfl

theorem waitingClaim_joinGroup (s : State) (g : Group) (k : Fin 24) :
    ((s.joinGroup g).body k).waitingClaim = (s.body k).waitingClaim := by
  cases hb : s.body k with
  | waiting c left bl => rw [body_joinGroup_waiting hb]; rfl
  | _ => rw [body_joinGroup_of_not_waiting (by rw [hb]; rfl), hb]

theorem live_joinGroup (s : State) (g : Group) (k : Fin 24) : ((s.joinGroup g).body k).live = (s.body k).live := by
  cases hb : s.body k with
  | waiting c left bl => rw [body_joinGroup_waiting hb]; rfl
  | _ => rw [body_joinGroup_of_not_waiting (by rw [hb]; rfl), hb]

/-- A property of the table that retirements, blocker sets, event flags and the re-screen leave outlasts an
activation. -/
theorem tableActivate_keeps {P : State → Prop} (hretire : ∀ s ks, s.Retirable ks → P s →
      P (s.retireAll ks (some .revoked) false)) (hjoin : ∀ s g, P s → P (s.joinGroup g))
    (hsame : ∀ {s t}, SameTable s t → P s → P t) (hrescreen : ∀ s, P s → P s.rescreen) {s : State} {g : Group}
    (hs : P s) : P (s.tableActivate g) := by
  by_cases hks : s.revoked g = []
  · rw [tableActivate_of_none hks]
    exact hjoin s g hs
  · rw [tableActivate_of_some hks]
    exact hrescreen _ (hsame (sameTable_activating s g) (hjoin _ g (hretire s _ (retirable_revoked s g) hs)))

/-- The table as the re-screen of an activation finds it still has an exact wait list. -/
theorem waitListExact_activating {s : State} (g : Group) (hs : s.WaitListExact) : (s.activating g).WaitListExact := by
  have hretired := waitListExact_retireAll (retirable_revoked s g) (some .revoked) false hs
  have hjoined := waitListExact_of_same (waitList_joinGroup _ g) (waitingClaim_joinGroup _ g) hretired
  exact waitListExact_of_same (sameTable_activating s g).waitList (sameTable_activating s g).waitingClaim hjoined

theorem liveApart_tableActivate {s : State} {g : Group} (hs : s.LiveApart) : (s.tableActivate g).LiveApart :=
  tableActivate_keeps (fun _ _ hks => liveApart_retireAll hks _ _)
    (fun s g => liveApart_of_live (joinGroup_frame s g).timing fun k c hc => by rwa [live_joinGroup] at hc)
    (fun h => liveApart_of_live h.timing fun k c hc => by rwa [h.live] at hc) (fun _ => liveApart_rescreen) hs

theorem waitListExact_tableActivate {s : State} {g : Group} (hs : s.WaitListExact) :
    (s.tableActivate g).WaitListExact :=
  tableActivate_keeps (fun _ _ hks => waitListExact_retireAll hks _ _)
    (fun s g => waitListExact_of_same (waitList_joinGroup s g) (waitingClaim_joinGroup s g))
    (fun h => waitListExact_of_same h.waitList h.waitingClaim) (fun _ => waitListExact_rescreen) hs

theorem pending_tableActivate (s : State) (g : Group) : (s.tableActivate g).pending = s.pending :=
  tableActivate_keeps (P := fun u => u.pending = s.pending)
    (fun u ks _ hu => (retireAll_frame ks _ _ u).pending.trans hu) (fun u g hu => (joinGroup_frame u g).pending.trans hu)
    (fun h hu => h.pending.trans hu) (fun u hu => (rescreen_frame u).pending.trans hu) rfl

/-! ### The whole event -/

/-- What a re-screen, the table's part in an activation, and changes that leave the table keep holds after all that
follows a change of a source. -/
theorem afterSources_keeps {P : State → Prop} (hsame : ∀ {s t}, SameTable s t → P s → P t)
    (hrescreen : ∀ s, P s → P s.rescreen) (hactivate : ∀ s g, P s → P (s.tableActivate g)) {s : State}
    {change : State → State} (h : P (change s)) : P (s.afterSources change) := by
  have hevent : ∀ (u : State) (before : Bool) (g : Group), P u → P (u.groupEvent before g) := by
    intro u before g hu
    obtain ⟨-, he⟩ | ⟨-, he⟩ | ⟨-, -, he⟩ := groupEvent_cases u before g
    · rw [he]; exact hu
    · exact hsame he (hrescreen u hu)
    · exact hsame he (hactivate u g hu)
  unfold State.afterSources
  exact hsame (sameTable_estopEvent _ _) (hevent _ _ .g3 (hevent _ _ .g2 (hevent _ _ .g1 h)))

/-- A change of the lines and of the supervisor flags alone (R154, R168). -/
def SourcesOnly (s u : State) : Prop :=
  { u with lines := s.lines, keepOut := { u.keepOut with flags := s.keepOut.flags } } = s

section
variable {s u : State}

theorem SourcesOnly.fields (h : SourcesOnly s u) :
    u.mode = s.mode ∧ u.timing = s.timing ∧ u.slots = s.slots ∧ u.waitList = s.waitList ∧ u.pending = s.pending ∧
      ∀ b g, u.keepOut.touchesGroup b g = s.keepOut.touchesGroup b g := by
  have hmode := congrArg State.mode h
  have htiming := congrArg State.timing h
  have hslots := congrArg State.slots h
  have hlist := congrArg State.waitList h
  have hpending := congrArg State.pending h
  have htouch := congrArg (fun v : State => v.keepOut.touchesGroup) h
  exact ⟨hmode, htiming, hslots, hlist, hpending, fun b g => congrFun (congrFun htouch b) g⟩

theorem SourcesOnly.liveApart (h : SourcesOnly s u) (hs : s.LiveApart) : u.LiveApart :=
  have ⟨_, htiming, hslots, _⟩ := h.fields
  liveApart_of_live htiming (fun k c hc => by rwa [State.body_congr hslots] at hc) hs

theorem SourcesOnly.waitListExact (h : SourcesOnly s u) (hs : s.WaitListExact) : u.WaitListExact :=
  have ⟨_, _, hslots, hlist, _⟩ := h.fields
  waitListExact_of_same hlist (fun k => by rw [State.body_congr hslots]) hs

end

theorem liveApart_afterSources {s : State} {change : State → State} (h : SourcesOnly s (change s))
    (hs : s.LiveApart) : (s.afterSources change).LiveApart :=
  afterSources_keeps (fun h => liveApart_of_live h.timing fun k c hc => by rwa [h.live] at hc)
    (fun _ => liveApart_rescreen) (fun _ _ => liveApart_tableActivate) (h.liveApart hs)

theorem waitListExact_afterSources {s : State} {change : State → State} (h : SourcesOnly s (change s))
    (hs : s.WaitListExact) : (s.afterSources change).WaitListExact :=
  afterSources_keeps (fun h => waitListExact_of_same h.waitList h.waitingClaim) (fun _ => waitListExact_rescreen)
    (fun _ _ => waitListExact_tableActivate) (h.waitListExact hs)

theorem pending_afterSources {s : State} {change : State → State} (h : SourcesOnly s (change s)) :
    (s.afterSources change).pending = s.pending :=
  have ⟨_, _, _, _, hpending, _⟩ := h.fields
  afterSources_keeps (P := fun u => u.pending = s.pending) (fun h hu => h.pending.trans hu)
    (fun u hu => (rescreen_frame u).pending.trans hu) (fun u g hu => (pending_tableActivate u g).trans hu) hpending

/-! ### Blocker sets while groups change -/

/-- The blocker sets are what screening would give under the group activities that `act` tells, and none is empty
(R55, R56). -/
def State.BlockersUnder (act : Group → Bool) (s : State) : Prop :=
  ∀ k c left bl, s.body k = .waiting c left bl → bl.isEmpty = false ∧
    bl = { slots := (s.screen c.owner c.box (s.aheadInList k)).slots
           groups := allGroups.filter fun g => act g && s.keepOut.touchesGroup c.box g }

theorem blockersExact_iff (s : State) : s.BlockersExact ↔ s.BlockersUnder s.groupActive := Iff.rfl

/-- Blocker sets do not notice a change that leaves the table, whatever it does to the sources. -/
theorem blockersUnder_congr {s t : State} {act : Group → Bool} (hclaims : ∀ k, (t.body k).standing = (s.body k).standing)
    (hlist : t.waitList = s.waitList) (htiming : t.timing = s.timing)
    (htouch : ∀ b g, t.keepOut.touchesGroup b g = s.keepOut.touchesGroup b g) (hs : s.BlockersUnder act) :
    t.BlockersUnder act := by
  intro k c left bl hb
  have hstands : (s.body k).standing = some (c, some bl) :=
    (hclaims k).symm.trans ((standing_eq_waiting_iff _ _ _).2 ⟨left, hb⟩)
  obtain ⟨left', hb'⟩ := (standing_eq_waiting_iff _ _ _).1 hstands
  obtain ⟨hne, hbl⟩ := hs k c left' bl hb'
  refine ⟨hne, hbl.trans ?_⟩
  have hblocks : t.blocksCandidate c.owner c.box (t.aheadInList k) = s.blocksCandidate c.owner c.box (s.aheadInList k) := by
    funext j
    rw [aheadInList_congr hlist]
    exact blocksCandidate_congr (live_of_standing (hclaims j)) (waitingClaim_of_standing (hclaims j)) htiming _ _ _
  unfold State.screen
  simp only [hblocks, htouch]

theorem SameTable.blockersUnder {s t : State} {act : Group → Bool} (h : SameTable s t) (hs : s.BlockersUnder act) :
    t.BlockersUnder act := blockersUnder_congr h.claims h.waitList h.timing (fun b g => by rw [h.keepOut]) hs

theorem SameTable.blockersExact {s t : State} (h : SameTable s t) (hs : s.BlockersExact) : t.BlockersExact := by
  rw [blockersExact_iff, funext h.active]
  exact h.blockersUnder hs

/-- Groups put in a blocker set keep their order, whether the group stood there or not. -/
theorem filter_addGroup (act touches : Group → Bool) (g : Group) :
    (allGroups.filter fun h => (allGroups.filter fun i => act i && touches i).contains h || h == g) =
      allGroups.filter fun h => act h && touches h || h == g :=
  List.filter_congr fun h _ => by
    congr 1
    rw [Bool.eq_iff_iff, List.contains_iff_mem, List.mem_filter]
    exact and_iff_right (mem_allGroups h)

theorem addGroup_isEmpty (bl : Blockers) (g : Group) : (bl.addGroup g).isEmpty = false := by
  refine Bool.eq_false_iff.2 fun h => ?_
  obtain ⟨-, hgroups⟩ := (blockers_isEmpty_iff _).1 h
  have hmem : g ∈ (bl.addGroup g).groups := (mem_addGroup bl g g).2 (.inr rfl)
  rw [hgroups] at hmem
  cases hmem

/-- The group that the waits gain is active for them from then on (R58). -/
theorem blockersUnder_joinGroup {s : State} {act : Group → Bool} (g : Group) (hs : s.BlockersUnder act) :
    (s.joinGroup g).BlockersUnder fun h => act h || h == g := by
  intro k c left bl hb
  have hwait : ((s.joinGroup g).body k).waitingClaim = some c := by rw [hb]; rfl
  rw [waitingClaim_joinGroup, waitingClaim_eq_some_iff] at hwait
  obtain ⟨left', bl', hb'⟩ := hwait
  obtain ⟨hne, hbl⟩ := hs k c left' bl' hb'
  rw [body_joinGroup_waiting hb', SlotBody.waiting.injEq] at hb
  obtain ⟨-, -, rfl⟩ := hb
  have hframe := joinGroup_frame s g
  have hslots : ((s.joinGroup g).screen c.owner c.box ((s.joinGroup g).aheadInList k)).slots = bl'.slots := by
    have hblocks : ∀ j, (s.joinGroup g).blocksCandidate c.owner c.box ((s.joinGroup g).aheadInList k) j =
        s.blocksCandidate c.owner c.box (s.aheadInList k) j := by
      intro j
      rw [aheadInList_congr (waitList_joinGroup s g)]
      exact blocksCandidate_congr (live_joinGroup s g j) (waitingClaim_joinGroup s g j) hframe.timing _ _ _
    rw [screen_eq hblocks (State.activeGroupsTouched_congr hframe.keepOut hframe.lines _), hbl]
  rw [hslots, hframe.keepOut]
  cases ht : s.keepOut.touchesGroup c.box g with
  | true =>
    refine ⟨addGroup_isEmpty bl' g, ?_⟩
    have hgroups : (bl'.addGroup g).groups =
        allGroups.filter fun h => act h && s.keepOut.touchesGroup c.box h || h == g := by
      rw [← filter_addGroup, hbl]
      rfl
    have hjoined : (fun h => act h && s.keepOut.touchesGroup c.box h || h == g) =
        fun h => (act h || h == g) && s.keepOut.touchesGroup c.box h := by
      funext h
      by_cases hg : h = g
      · subst hg; simp [ht]
      · simp [beq_eq_false_iff_ne.2 hg]
    rw [hjoined] at hgroups
    rw [if_pos rfl]
    exact congrArg (Blockers.mk bl'.slots) hgroups
  | false =>
    have hsame : (fun h => (act h || h == g) && s.keepOut.touchesGroup c.box h) =
        fun h => act h && s.keepOut.touchesGroup c.box h := by
      funext h
      by_cases hg : h = g
      · subst hg; simp [ht]
      · simp [beq_eq_false_iff_ne.2 hg]
    rw [if_neg Bool.false_ne_true, hsame]
    exact ⟨hne, by rw [hbl]⟩

/-- While the groups' events are taken one after another, the blocker sets know the present activity of each group
whose event is taken, and of every other group the present one or the old (R156). -/
def State.BlockersFollow (old : Group → Bool) (pending : List Group) (s : State) : Prop :=
  ∃ act, s.BlockersUnder act ∧ ∀ g, act g = s.groupActive g ∨ g ∈ pending ∧ act g = old g

theorem Moves.groupActive {s t : State} (h : Moves s t) (g : Group) : t.groupActive g = s.groupActive g :=
  h.keeps (P := fun u => u.groupActive g = s.groupActive g) (fun {_ _} h hu => (h.groupActive g).trans hu) rfl

theorem State.BlockersExact.follow {s : State} (h : s.BlockersExact) (old : Group → Bool) (pending : List Group) :
    s.BlockersFollow old pending := ⟨s.groupActive, h, fun _ => .inl rfl⟩

/-- The event of a group brings its activity into the blocker sets. -/
theorem blockersFollow_groupEvent {s : State} {old : Group → Bool} {g : Group} {pending : List Group}
    (hm : s.mode = .run) (hw : s.WaitListExact) (hs : s.BlockersFollow old (g :: pending)) :
    (s.groupEvent (old g) g).BlockersFollow old pending := by
  obtain ⟨act, hunder, hact⟩ := hs
  obtain ⟨hsame, he⟩ | ⟨-, he⟩ | ⟨-, hg, he⟩ := groupEvent_cases s (old g) g
  · have hold : old g = s.groupActive g := hsame.resolve_left fun h => by rw [hm] at h; cases h
    rw [he]
    refine ⟨act, hunder, fun h => ?_⟩
    rcases hact h with hnow | ⟨hpending, hwas⟩
    · exact .inl hnow
    · rcases List.mem_cons.1 hpending with rfl | hpending
      · exact .inl (hwas.trans hold)
      · exact .inr ⟨hpending, hwas⟩
  · obtain ⟨hnodup, -⟩ := id hw
    exact (he.blockersExact ((rescreen_event s hnodup).blockersExact hw)).follow old pending
  · by_cases hks : s.revoked g = []
    · rw [tableActivate_of_none hks] at he
      refine ⟨fun h => act h || h == g, he.blockersUnder (blockersUnder_joinGroup g hunder), fun h => ?_⟩
      rw [(moves_groupEvent s _ g).groupActive]
      dsimp only
      by_cases hgh : h = g
      · subst hgh
        rw [hg, beq_self_eq_true, Bool.or_true]
        exact .inl rfl
      · rw [beq_eq_false_iff_ne.2 hgh, Bool.or_false]
        exact (hact h).imp_right fun ⟨hpending, hwas⟩ => ⟨(List.mem_cons.1 hpending).resolve_left hgh, hwas⟩
    · rw [tableActivate_of_some hks] at he
      have hw' := waitListExact_activating g hw
      obtain ⟨hnodup, -⟩ := id hw'
      exact (he.blockersExact ((rescreen_event _ hnodup).blockersExact hw')).follow old pending

theorem waitListExact_groupEvent {s : State} (before : Bool) (g : Group) (hs : s.WaitListExact) :
    (s.groupEvent before g).WaitListExact := by
  obtain ⟨-, he⟩ | ⟨-, he⟩ | ⟨-, -, he⟩ := groupEvent_cases s before g
  · rw [he]; exact hs
  · exact waitListExact_of_same he.waitList he.waitingClaim (waitListExact_rescreen hs)
  · exact waitListExact_of_same he.waitList he.waitingClaim (waitListExact_tableActivate hs)

theorem mode_groupEvent (s : State) (before : Bool) (g : Group) : (s.groupEvent before g).mode = s.mode :=
  (moves_groupEvent s before g).keeps (P := fun u => u.mode = s.mode) (fun h hu => h.mode.trans hu) rfl

/-- Whatever groups a change of a source makes active or inactive in device RUN, the blocker sets end as screening would
give them (R58, R70). -/
theorem blockersExact_afterSources {s : State} {change : State → State} (h : SourcesOnly s (change s))
    (hm : s.mode = .run) (hw : s.WaitListExact) (hs : s.BlockersExact) : (s.afterSources change).BlockersExact := by
  obtain ⟨hmode, htiming, hslots, hlist, -, htouch⟩ := h.fields
  have hold : (change s).BlockersUnder s.groupActive :=
    blockersUnder_congr (fun k => by rw [State.body_congr hslots]) hlist htiming htouch hs
  have hall : ∀ g : Group, g ∈ [Group.g1, .g2, .g3] := mem_allGroups
  have h0 : (change s).BlockersFollow s.groupActive [.g1, .g2, .g3] := ⟨_, hold, fun g => .inr ⟨hall g, rfl⟩⟩
  have hm0 := hmode.trans hm
  have hw0 := h.waitListExact hw
  have h1 := blockersFollow_groupEvent hm0 hw0 h0
  have hm1 := (mode_groupEvent (change s) (s.groupActive .g1) .g1).trans hm0
  have hw1 := waitListExact_groupEvent (s.groupActive .g1) .g1 hw0
  have h2 := blockersFollow_groupEvent hm1 hw1 h1
  have hm2 := (mode_groupEvent _ (s.groupActive .g2) .g2).trans hm1
  have hw2 := waitListExact_groupEvent (s.groupActive .g2) .g2 hw1
  obtain ⟨act, hunder, hact⟩ := blockersFollow_groupEvent hm2 hw2 h2
  unfold State.afterSources
  refine (sameTable_estopEvent _ _).blockersExact ?_
  rw [blockersExact_iff, ← funext fun g => (hact g).resolve_right fun hp => nomatch hp.1]
  exact hunder

end Sys2Proof.Machine
end

section
/-! PROOFS. The laws of the Claim Table across a CLAIM that is kept, GRANTED or WAITING (R57, R58, R60, R61, R67). -/

namespace Sys2Proof.Machine

theorem eq_other_iff (p q : Arm) : p = q.other ↔ q = p.other := by cases p <;> cases q <;> decide

/-! ### The place that a new wait takes in the list -/

theorem takeWhile_ne_inserted {k : Fin 24} {pre : List (Fin 24)} (h : k ∉ pre) (post : List (Fin 24)) :
    (pre ++ k :: post).takeWhile (fun i => i != k) = pre := by
  rw [List.takeWhile_append_of_pos fun i hi => by simpa using fun e : i = k => h (e ▸ hi)]
  simp

/-- The new entry stands ahead of just those that it was put in front of. -/
theorem inserted_ahead_iff {j k : Fin 24} {pre : List (Fin 24)} (hne : k ≠ j) (h : k ∉ pre) (post : List (Fin 24)) :
    k ∈ (pre ++ k :: post).takeWhile (fun i => i != j) ↔ j ∉ pre := by
  induction pre with
  | nil => simp [hne]
  | cons i pre ih =>
    rw [List.mem_cons, not_or] at h
    obtain ⟨hi, hpre⟩ := h
    rw [List.cons_append, List.takeWhile_cons]
    by_cases hij : i = j
    · simp [hij]
    · have hji : j ≠ i := Ne.symm hij
      rw [if_pos (by simpa using hij), List.mem_cons, ih hpre, List.mem_cons]
      simp [hi, hji]

/-- Entries stand ahead of one another as before a new one is put in. -/
theorem ahead_inserted {i j k : Fin 24} {pre post : List (Fin 24)} (hi : i ≠ k) (hj : j ≠ k)
    (h : k ∉ pre ++ post) :
    ((pre ++ k :: post).takeWhile fun x => x != j).contains i =
      ((pre ++ post).takeWhile fun x => x != j).contains i := by
  have hdrop : (pre ++ k :: post).filter (fun x => x != k) = pre ++ post := by
    have hkeep : (pre ++ post).filter (fun x => x != k) = pre ++ post :=
      List.filter_eq_self.2 fun x hx => by simpa using fun e : x = k => h (e ▸ hx)
    rw [List.filter_append] at hkeep
    rw [List.filter_append, List.filter_cons_of_neg (by simp), hkeep]
  have hikeep : (i != k) = true := by simpa using hi
  rw [← hdrop, takeWhile_filter_ne _ j (by simpa using hj), Bool.eq_iff_iff, List.contains_iff_mem,
    List.contains_iff_mem, List.mem_filter]
  exact (and_iff_left hikeep).symm

/-! ### A wait put into the list -/

section
variable {s t : State} {k : Fin 24} {c : ClaimData} {pre post : List (Fin 24)}

/-- Where both slots hold a wait, an URGENT one in slot i has an URGENT one in slot j (R57). -/
def UrgencyOrdered (s : State) (j i : Fin 24) : Prop :=
  ∀ d e, (s.body j).waitingClaim = some d → (s.body i).waitingClaim = some e → e.cls = .urgent → d.cls = .urgent

/-- The order by class outlasts a new entry that stands behind no NORMAL claim if it is URGENT, and in front of no URGENT
one if it is NORMAL (R57). -/
theorem pairwise_urgencyOrdered_insert (hnew : (t.body k).waitingClaim = some c)
    (hold : ∀ j ∈ pre ++ post, (t.body j).waitingClaim = (s.body j).waitingClaim)
    (hfront : ∀ j ∈ pre, ∀ d, (s.body j).waitingClaim = some d → c.cls = .urgent → d.cls = .urgent)
    (hback : ∀ j ∈ post, ∀ d, (s.body j).waitingClaim = some d → d.cls = .urgent → c.cls = .urgent)
    (hs : (pre ++ post).Pairwise (UrgencyOrdered s)) : (pre ++ k :: post).Pairwise (UrgencyOrdered t) := by
  have ht : (pre ++ post).Pairwise (UrgencyOrdered t) := hs.imp_of_mem fun {j i} hj hi hji => by
    unfold UrgencyOrdered
    rwa [hold j hj, hold i hi]
  obtain ⟨hpre, hpost, hacross⟩ := List.pairwise_append.1 ht
  refine List.pairwise_append.2 ⟨hpre, List.pairwise_cons.2 ⟨fun j hj d e hd he => ?_, hpost⟩,
    fun i hi j hj => (List.mem_cons.1 hj).elim (fun hjk d e hd he => ?_) (hacross i hi j)⟩
  · rw [hnew] at hd
    cases hd
    rw [hold j (List.mem_append_right _ hj)] at he
    exact hback j hj e he
  · rw [hjk, hnew] at he
    cases he
    rw [hold i (List.mem_append_left _ hi)] at hd
    exact hfront i hi d hd

/-- One wait more, of an arm that had none, put into the list at its place (R57, R60). -/
theorem waitListExact_insert (hsplit : s.waitList = pre ++ post) (hlist : t.waitList = pre ++ k :: post)
    (hk : k ∉ s.waitList) (hnew : (t.body k).waitingClaim = some c)
    (hold : ∀ j, j ≠ k → (t.body j).waitingClaim = (s.body j).waitingClaim)
    (hother : ∀ j d, (s.body j).waitingClaim = some d → d.owner ≠ c.owner)
    (hfront : ∀ j ∈ pre, ∀ d, (s.body j).waitingClaim = some d → c.cls = .urgent → d.cls = .urgent)
    (hback : ∀ j ∈ post, ∀ d, (s.body j).waitingClaim = some d → d.cls = .urgent → c.cls = .urgent)
    (hs : s.WaitListExact) : t.WaitListExact := by
  obtain ⟨hnodup, hmem, hone, hsorted⟩ := hs
  have hperm : t.waitList.Perm (k :: s.waitList) := by rw [hlist, hsplit]; exact List.perm_middle
  have hapart : ∀ j d, j ≠ k → (t.body j).waitingClaim = some d → d.owner ≠ c.owner := fun j d hj hd =>
    hother j d (hold j hj ▸ hd)
  refine ⟨hperm.nodup_iff.2 (List.nodup_cons.2 ⟨hk, hnodup⟩), fun j => ?_, fun i j d e hd he ho => ?_, ?_⟩
  · rw [hperm.mem_iff, List.mem_cons, hmem]
    by_cases hj : j = k
    · simp [hj, hnew]
    · simp [hj, hold j hj]
  · by_cases hi : i = k <;> by_cases hj : j = k
    · rw [hi, hj]
    · rw [hi, hnew] at hd
      cases hd
      exact absurd ho.symm (hapart j e hj he)
    · rw [hj, hnew] at he
      cases he
      exact absurd ho (hapart i d hi hd)
    · exact hone i j d e (hold i hi ▸ hd) (hold j hj ▸ he) ho
  · rw [hlist]
    rw [hsplit] at hk hsorted
    exact pairwise_urgencyOrdered_insert hnew (fun j hj => hold j fun he => hk (he ▸ hj)) hfront hback hsorted

end

/-! ### A slot that takes a claim -/

section
variable {s t : State} {p : Arm} {k : Fin 24} {box : Box} {b : SlotBody} {behind : Fin 24 → Bool}

theorem JoinedAt.body_taken (h : JoinedAt s t p k box b behind) : t.body k = b := congrArg Slot.body h.taken

theorem JoinedAt.body_waiting (h : JoinedAt s t p k box b behind) {j : Fin 24} (hj : j ≠ k) {w : ClaimData} {left : Nat}
    {bl : Blockers} (hb : s.body j = .waiting w left bl) :
    t.body j = .waiting w left
      (if w.owner = p.other ∧ w.box.conflicts s.timing.clearance box = true ∧ behind j = true then bl.addSlot k
      else bl) := by
  have hbody := congrArg Slot.body (h.others j hj)
  rw [hb] at hbody
  dsimp only at hbody
  refine Eq.trans hbody ?_
  split <;> rfl

theorem JoinedAt.body_of_not_waiting (h : JoinedAt s t p k box b behind) {j : Fin 24} (hj : j ≠ k)
    (hb : (s.body j).waitingClaim = none) : t.body j = s.body j := by
  have hbody := congrArg Slot.body (h.others j hj)
  cases hs : s.body j with
  | waiting w left bl => rw [hs] at hb; cases hb
  | _ => rw [hs] at hbody; exact hbody

theorem JoinedAt.live (h : JoinedAt s t p k box b behind) {j : Fin 24} (hj : j ≠ k) :
    (t.body j).live = (s.body j).live := by
  cases hs : s.body j with
  | waiting w left bl => rw [h.body_waiting hj hs]; rfl
  | _ => rw [h.body_of_not_waiting hj (by rw [hs]; rfl), hs]

theorem JoinedAt.waitingClaim (h : JoinedAt s t p k box b behind) {j : Fin 24} (hj : j ≠ k) :
    (t.body j).waitingClaim = (s.body j).waitingClaim := by
  cases hs : s.body j with
  | waiting w left bl => rw [h.body_waiting hj hs]; rfl
  | _ => rw [h.body_of_not_waiting hj (by rw [hs]; rfl), hs]

theorem JoinedAt.blocksCandidate (h : JoinedAt s t p k box b behind) (ht : t.timing = s.timing) {j : Fin 24}
    (hj : j ≠ k) (q : Arm) (c : Box) (f : Fin 24 → Bool) : t.blocksCandidate q c f j = s.blocksCandidate q c f j :=
  blocksCandidate_congr (h.live hj) (h.waitingClaim hj) ht q c f

end

theorem blocksCandidate_free {s : State} {k : Fin 24} (h : s.body k = .free) (p : Arm) (box : Box)
    (f : Fin 24 → Bool) : s.blocksCandidate p box f k = false := by
  unfold State.blocksCandidate
  rw [h]

theorem addSlot_isEmpty (bl : Blockers) (k : Fin 24) : (bl.addSlot k).isEmpty = false := by
  refine Bool.eq_false_iff.2 fun h => ?_
  obtain ⟨hslots, -⟩ := (blockers_isEmpty_iff _).1 h
  have hmem : k ∈ (bl.addSlot k).slots := (mem_addSlot bl k k).2 (.inr rfl)
  rw [hslots] at hmem
  cases hmem

/-- A screening that finds one slot more finds what the other found with that slot put in. -/
theorem screen_addSlot {s t : State} {p : Arm} {box : Box} {f g : Fin 24 → Bool} {k : Fin 24}
    (hothers : ∀ j, j ≠ k → t.blocksCandidate p box f j = s.blocksCandidate p box g j)
    (hold : s.blocksCandidate p box g k = false)
    (hgroups : t.activeGroupsTouched box = s.activeGroupsTouched box) :
    t.screen p box f =
      if t.blocksCandidate p box f k = true then (s.screen p box g).addSlot k else s.screen p box g := by
  cases hk : t.blocksCandidate p box f k with
  | false =>
    refine screen_eq (fun j => ?_) hgroups
    by_cases hj : j = k
    · rw [hj, hk, hold]
    · exact hothers j hj
  | true =>
    have hslots : ∀ j, t.blocksCandidate p box f j = ((s.screen p box g).slots.contains j || j == k) := by
      intro j
      rw [Bool.eq_iff_iff, Bool.or_eq_true, List.contains_iff_mem, mem_screen_slots, beq_iff_eq]
      by_cases hj : j = k
      · rw [hj, hk]
        simp
      · rw [hothers j hj]
        simp [hj]
    rw [if_pos rfl]
    unfold State.screen Blockers.addSlot at *
    rw [hgroups, funext hslots]

/-- Where the claim that slot k takes joins just the waits that it blocks, every blocker set stays as screening would
give it (R56, R58). -/
theorem blockersExact_joinedAt {s t : State} {k : Fin 24} {c : ClaimData} {b : SlotBody} {behind : Fin 24 → Bool}
    (h : JoinedAt s t c.owner k c.box b behind) (htiming : t.timing = s.timing) (hkeep : t.keepOut = s.keepOut)
    (hlines : t.lines = s.lines) (hfree : s.body k = .free)
    (hahead : ∀ i j, (s.body i).waitingClaim.isSome = true → (s.body j).waitingClaim.isSome = true →
      t.aheadInList j i = s.aheadInList j i)
    (hblocks : ∀ j w, (s.body j).waitingClaim = some w →
      (t.blocksCandidate w.owner w.box (t.aheadInList j) k = true ↔
        w.owner = c.owner.other ∧ w.box.conflicts s.timing.clearance c.box = true ∧ behind j = true))
    (hnew : ∀ d left bl, b = .waiting d left bl →
      bl.isEmpty = false ∧ bl = t.screen d.owner d.box (t.aheadInList k))
    (hs : s.BlockersExact) : t.BlockersExact := by
  intro j w left bl hb
  by_cases hj : j = k
  · subst hj
    rw [h.body_taken] at hb
    exact hnew w left bl hb
  · have hwait : WaitingAt s j w := by
      rw [← waitingClaim_eq_some_iff, ← h.waitingClaim hj, hb]; rfl
    obtain ⟨left', bl', hs'⟩ := hwait
    rw [h.body_waiting hj hs', SlotBody.waiting.injEq] at hb
    obtain ⟨-, -, rfl⟩ := hb
    have hw : (s.body j).waitingClaim = some w := by rw [hs']; rfl
    obtain ⟨hne, hbl⟩ := hs j w left' bl' hs'
    have hscreen := screen_addSlot (s := s) (t := t) (p := w.owner) (box := w.box) (f := t.aheadInList j)
      (g := s.aheadInList j) (k := k) (fun i hi => by
        rw [h.blocksCandidate htiming hi]
        exact blocksCandidate_ahead_congr fun hwi => hahead i j hwi (by rw [hw]; rfl))
      (blocksCandidate_free hfree _ _ _) (State.activeGroupsTouched_congr hkeep hlines _)
    rw [← hbl] at hscreen
    rw [hscreen]
    by_cases hcond : w.owner = c.owner.other ∧ w.box.conflicts s.timing.clearance c.box = true ∧ behind j = true
    · rw [if_pos hcond, if_pos ((hblocks j w hw).2 hcond)]
      exact ⟨addSlot_isEmpty bl' k, rfl⟩
    · rw [if_neg hcond, if_neg fun hk => hcond ((hblocks j w hw).1 hk)]
      exact ⟨hne, rfl⟩

/-- A change of the slots and of the wait list leaves all that screening asks beside them. -/
theorem fields_of_table {s t : State} (h : { t with slots := s.slots, waitList := s.waitList } = s) :
    t.mode = s.mode ∧ t.timing = s.timing ∧ t.keepOut = s.keepOut ∧ t.lines = s.lines ∧ t.pending = s.pending := by
  have hmode := congrArg State.mode h
  have htiming := congrArg State.timing h
  have hkeep := congrArg State.keepOut h
  have hlines := congrArg State.lines h
  have hpending := congrArg State.pending h
  exact ⟨hmode, htiming, hkeep, hlines, hpending⟩

theorem waitList_of_slots {s t : State} (h : { t with slots := s.slots } = s) :
    t.waitList = s.waitList ∧ { t with slots := s.slots, waitList := s.waitList } = s := by
  have hlist := congrArg State.waitList h
  have hframe := congrArg (fun u : State => { u with waitList := s.waitList }) h
  exact ⟨hlist, hframe⟩

/-! ### A claim kept as GRANTED -/

section
variable {s : State} {k : Fin 24} {c : ClaimData}

theorem liveApart_keepGranted (h : (s.screen c.owner c.box (s.aheadOfNew c.cls)).isEmpty = true) (hs : s.LiveApart) :
    (s.keepGranted k c).LiveApart := by
  have hjoined := keepGranted_joined s k c
  obtain ⟨-, hframe⟩ := waitList_of_slots (keepGranted_frame s k c)
  obtain ⟨-, htiming, -⟩ := fields_of_table hframe
  refine liveApart_of_new (k := k) htiming (fun j d hj hd => ?_) ?_ (clear_of_screen h) hs
  · rwa [hjoined.live hj] at hd
  · rw [hjoined.body_taken]; rfl

theorem waitListExact_keepGranted (hfree : s.body k = .free) (hs : s.WaitListExact) :
    (s.keepGranted k c).WaitListExact := by
  have hjoined := keepGranted_joined s k c
  obtain ⟨hlist, -⟩ := waitList_of_slots (keepGranted_frame s k c)
  refine waitListExact_of_same hlist (fun j => ?_) hs
  by_cases hj : j = k
  · subst hj
    rw [hjoined.body_taken, hfree]
    rfl
  · exact hjoined.waitingClaim hj

theorem blockersExact_keepGranted (hfree : s.body k = .free) (hs : s.BlockersExact) :
    (s.keepGranted k c).BlockersExact := by
  have hjoined := keepGranted_joined s k c
  obtain ⟨hlist, hframe⟩ := waitList_of_slots (keepGranted_frame s k c)
  obtain ⟨-, htiming, hkeep, hlines, -⟩ := fields_of_table hframe
  refine blockersExact_joinedAt hjoined htiming hkeep hlines hfree (fun i j _ _ => by rw [aheadInList_congr hlist])
    (fun j w _ => ?_) nofun hs
  rw [blocksCandidate_iff, hjoined.body_taken, htiming, conflicts_comm]
  simp only [SlotBody.live, SlotBody.waitingClaim, Option.some.injEq, exists_eq_left', and_true, reduceCtorEq,
    false_and, exists_false, or_false, eq_other_iff c.owner]

/-! ### A claim kept as WAITING -/

theorem liveApart_keepWaiting (hfree : s.body k = .free) (bl : Blockers) (hs : s.LiveApart) :
    (s.keepWaiting k c bl).LiveApart := by
  have hjoined := keepWaiting_joined s k c bl
  obtain ⟨-, htiming, -⟩ := fields_of_table (keepWaiting_frame s k c bl)
  refine liveApart_of_live htiming (fun j d hd => ?_) hs
  by_cases hj : j = k
  · subst hj
    rw [hjoined.body_taken] at hd
    cases hd
  · rwa [hjoined.live hj] at hd

theorem waitList_keepWaiting (s : State) (k : Fin 24) (c : ClaimData) (bl : Blockers) :
    (s.keepWaiting k c bl).waitList = s.insertWait c.cls k := by
  unfold State.keepWaiting State.joinBlockers
  rw [State.mapBodies_waitList]

/-- A FREE slot stands nowhere in the wait list. -/
theorem not_mem_waitList_of_free (hfree : s.body k = .free) (hs : s.WaitListExact) : k ∉ s.waitList := by
  obtain ⟨-, hmem, -⟩ := hs
  rw [hmem, hfree]
  exact nofun

/-- The waits ahead of the new entry are those that are ahead of a new request of its class (R54, R57). -/
theorem mem_takeWhile_aheadOfNew_iff (hs : s.WaitListExact) {j : Fin 24} (hj : (s.body j).waitingClaim.isSome = true)
    (cls : ClaimClass) : j ∈ s.waitList.takeWhile (s.aheadOfNew cls) ↔ s.aheadOfNew cls j = true := by
  obtain ⟨-, hmem, -⟩ := id hs
  refine ⟨List.mem_takeWhile_imp, fun hahead => ?_⟩
  have hlist := (hmem j).2 hj
  rw [← List.takeWhile_append_dropWhile (p := s.aheadOfNew cls) (l := s.waitList), List.mem_append] at hlist
  refine hlist.resolve_right fun hdrop => ?_
  rw [dropWhile_fails (pairwise_aheadOfNew hs cls) j hdrop] at hahead
  cases hahead

theorem waitListExact_keepWaiting (hfree : s.body k = .free) (hnone : s.hasWaiting c.owner = false) (bl : Blockers)
    (hs : s.WaitListExact) : (s.keepWaiting k c bl).WaitListExact := by
  have hjoined := keepWaiting_joined s k c bl
  have hother : ∀ j d, (s.body j).waitingClaim = some d → d.owner ≠ c.owner := fun j d hd ho =>
    Bool.eq_false_iff.1 hnone ((hasWaiting_iff s c.owner).2 ⟨j, d, (waitingClaim_eq_some_iff s j d).1 hd, ho⟩)
  have hfront : ∀ j ∈ s.waitList.takeWhile (s.aheadOfNew c.cls), ∀ d, (s.body j).waitingClaim = some d →
      c.cls = .urgent → d.cls = .urgent := by
    intro j hj d hd hurgent
    obtain ⟨e, he, hahead⟩ := (aheadOfNew_iff s c.cls j).1 (List.mem_takeWhile_imp hj)
    rw [← waitingClaim_eq_some_iff, hd] at he
    cases he
    cases hcls : d.cls with
    | urgent => rfl
    | normal => exact absurd ⟨hurgent, hcls⟩ hahead
  have hback : ∀ j ∈ s.waitList.dropWhile (s.aheadOfNew c.cls), ∀ d, (s.body j).waitingClaim = some d →
      d.cls = .urgent → c.cls = .urgent := by
    intro j hj d hd hurgent
    by_contra hnormal
    refine Bool.eq_false_iff.1 (dropWhile_fails (pairwise_aheadOfNew hs c.cls) j hj) ?_
    exact (aheadOfNew_iff s c.cls j).2 ⟨d, (waitingClaim_eq_some_iff s j d).1 hd, fun hcon => hnormal hcon.1⟩
  exact waitListExact_insert List.takeWhile_append_dropWhile.symm (waitList_keepWaiting s k c bl)
    (not_mem_waitList_of_free hfree hs) (by rw [hjoined.body_taken]; rfl) (fun _ => hjoined.waitingClaim) hother hfront
    hback hs

theorem blockersExact_keepWaiting (hfree : s.body k = .free)
    (hbl : (s.screen c.owner c.box (s.aheadOfNew c.cls)).isEmpty = false) (hw : s.WaitListExact)
    (hs : s.BlockersExact) :
    (s.keepWaiting k c (s.screen c.owner c.box (s.aheadOfNew c.cls))).BlockersExact := by
  have hjoined := keepWaiting_joined s k c (s.screen c.owner c.box (s.aheadOfNew c.cls))
  obtain ⟨-, htiming, hkeep, hlines, -⟩ :=
    fields_of_table (keepWaiting_frame s k c (s.screen c.owner c.box (s.aheadOfNew c.cls)))
  have hlist := waitList_keepWaiting s k c (s.screen c.owner c.box (s.aheadOfNew c.cls))
  generalize s.keepWaiting k c (s.screen c.owner c.box (s.aheadOfNew c.cls)) = t at hjoined htiming hkeep hlines hlist ⊢
  have hk := not_mem_waitList_of_free hfree hw
  have hsplit : s.waitList.takeWhile (s.aheadOfNew c.cls) ++ s.waitList.dropWhile (s.aheadOfNew c.cls) = s.waitList :=
    List.takeWhile_append_dropWhile
  have hpre : k ∉ s.waitList.takeWhile (s.aheadOfNew c.cls) := fun h => hk (hsplit ▸ List.mem_append_left _ h)
  have hwaits : ∀ j, (s.body j).waitingClaim.isSome = true → j ≠ k := fun j hj he => by
    rw [he, hfree] at hj; cases hj
  refine blockersExact_joinedAt hjoined htiming hkeep hlines hfree (fun i j hi hj => ?_) (fun j w hj => ?_)
    (fun d left bl hd => ?_) hs
  · unfold State.aheadInList
    rw [hlist, State.insertWait, ahead_inserted (hwaits i hi) (hwaits j hj) (hsplit.symm ▸ hk), hsplit]
  · have hsome : (s.body j).waitingClaim.isSome = true := by rw [hj]; rfl
    have hahead : t.aheadInList j k = !s.aheadOfNew c.cls j := by
      unfold State.aheadInList
      rw [hlist, State.insertWait, Bool.eq_iff_iff, List.contains_iff_mem,
        inserted_ahead_iff (hwaits j hsome).symm hpre, mem_takeWhile_aheadOfNew_iff hw hsome]
      simp
    rw [blocksCandidate_iff, hjoined.body_taken, htiming, hahead, conflicts_comm]
    simp only [SlotBody.live, SlotBody.waitingClaim, Option.some.injEq, exists_eq_left', reduceCtorEq, false_and,
      exists_false, false_or, eq_other_iff c.owner]
  · cases hd
    refine ⟨hbl, screen_eq (fun i => ?_) (State.activeGroupsTouched_congr hkeep hlines _).symm⟩
    by_cases hi : i = k
    · subst hi
      rw [blocksCandidate_free hfree, eq_comm, Bool.eq_false_iff, Ne, blocksCandidate_iff, hjoined.body_taken]
      simp [SlotBody.live, SlotBody.waitingClaim]
    · rw [hjoined.blocksCandidate htiming hi]
      refine blocksCandidate_ahead_congr fun hwi => ?_
      unfold State.aheadInList
      rw [hlist, State.insertWait, takeWhile_ne_inserted hpre, Bool.eq_iff_iff, List.contains_iff_mem,
        mem_takeWhile_aheadOfNew_iff hw hwi]

end

end Sys2Proof.Machine
end

section
/-! PROOFS. Every command as a chain of the few changes that the Claim Table knows, and the laws that each of them keeps:
the law of the queue, of the live claims, of the wait list and of the blocker sets. -/

namespace Sys2Proof.Machine

/-! ### What a command can do to the table -/

/-- One change that a command makes, as the Claim Table sees it. -/
inductive TableChange : State → State → Prop where
  | same {s t : State} : SameTable s t → TableChange s t
  | retired {s : State} {ks : List (Fin 24)} (n : Option NoticeKind) (r : Bool) : s.Retirable ks →
      TableChange s (s.retireAndRescreen ks n r)
  | granted {s : State} {k : Fin 24} {c : ClaimData} : s.mode = .run → s.body k = .free →
      (s.screen c.owner c.box (s.aheadOfNew c.cls)).isEmpty = true → TableChange s (s.keepGranted k c)
  | waits {s : State} {k : Fin 24} {c : ClaimData} : s.mode = .run → s.body k = .free →
      (s.screen c.owner c.box (s.aheadOfNew c.cls)).isEmpty = false → s.hasWaiting c.owner = false →
      TableChange s (s.keepWaiting k c (s.screen c.owner c.box (s.aheadOfNew c.cls)))
  | sources {s : State} {change : State → State} : SourcesOnly s (change s) → TableChange s (s.afterSources change)
  /-- In CONFIG the settings change, and the table stays as the teardown left it. -/
  | settings {s t : State} : s.mode = .config → t.slots = s.slots → t.waitList = s.waitList → t.pending = s.pending →
      TableChange s t
  | emptied {s t : State} : (∀ k, t.body k = .free) → t.waitList = [] → t.pending = s.pending → TableChange s t

/-- What a command does to the table: a chain of such changes. -/
def TableChanges (s t : State) : Prop := Relation.ReflTransGen TableChange s t

theorem TableChanges.refl (s : State) : TableChanges s s := Relation.ReflTransGen.refl

theorem TableChange.one {s t : State} (h : TableChange s t) : TableChanges s t := .single h

theorem SameTable.changes {s t : State} (h : SameTable s t) : TableChanges s t := (TableChange.same h).one

theorem TableChanges.trans {s t u : State} (h : TableChanges s t) (h' : TableChanges t u) : TableChanges s u :=
  Relation.ReflTransGen.trans h h'

/-- A property that each change keeps is kept by the chain. -/
theorem TableChanges.keeps {P : State → Prop} (hP : ∀ {s t}, TableChange s t → P s → P t) {s t : State}
    (h : TableChanges s t) (hs : P s) : P t := by
  induction h with
  | refl => exact hs
  | tail _ h ih => exact hP h ih

/-! ### The queue -/

theorem TableChange.pending {s t : State} (h : TableChange s t) : t.pending = s.pending := by
  cases h with
  | same h => exact h.pending
  | retired n r => exact (retireAndRescreen_frame s _ n r).pending
  | granted =>
    obtain ⟨-, hframe⟩ := waitList_of_slots (keepGranted_frame s _ _)
    obtain ⟨-, -, -, -, hpending⟩ := fields_of_table hframe
    exact hpending
  | waits =>
    obtain ⟨-, -, -, -, hpending⟩ := fields_of_table (keepWaiting_frame s _ _ _)
    exact hpending
  | sources h => exact pending_afterSources h
  | settings _ _ _ h => exact h
  | emptied _ _ h => exact h

/-! ### The table in CONFIG -/

/-- In CONFIG the table is empty (R47). -/
def State.TableQuiet (s : State) : Prop := s.mode = .config → ∀ k, s.body k = .free

/-- In CONFIG a change of a source leaves the slots (R162). -/
theorem slots_afterSources_config {s : State} {change : State → State} (h : SourcesOnly s (change s))
    (hm : s.mode = .config) (k : Fin 24) (hk : s.body k = .free) : (s.afterSources change).body k = .free := by
  obtain ⟨hmode, -, hslots, -⟩ := h.fields
  rw [afterSources_config (hmode.trans hm)]
  exact (sameTable_estopEvent _ _).body_free ((State.body_congr hslots k).trans hk)

theorem TableChange.tableQuiet {s t : State} (h : TableChange s t) (hs : s.TableQuiet) : t.TableQuiet := by
  intro hm k
  cases h with
  | same h => exact h.body_free (hs (h.mode hm) k)
  | @retired ks n r hks =>
    have hfree := hs ((retireAndRescreen_frame s ks n r).mode ▸ hm)
    have hnone : ks = [] := List.eq_nil_iff_forall_not_mem.2 fun j hj => by
      obtain ⟨-, hclaims⟩ := hks
      have hclaim := hclaims j hj
      rw [hfree j] at hclaim
      cases hclaim
    rw [hnone]
    exact hfree k
  | granted hrun =>
    obtain ⟨-, hframe⟩ := waitList_of_slots (keepGranted_frame s _ _)
    obtain ⟨hmode, -⟩ := fields_of_table hframe
    rw [hmode, hrun] at hm
    cases hm
  | waits hrun =>
    obtain ⟨hmode, -⟩ := fields_of_table (keepWaiting_frame s _ _ _)
    rw [hmode, hrun] at hm
    cases hm
  | sources h =>
    have hmode : (s.afterSources _).mode = s.mode :=
      (moves_afterSources s _).keeps (P := fun u => u.mode = s.mode) (fun h hu => h.mode.trans hu) h.fields.1
    rw [hmode] at hm
    exact slots_afterSources_config h hm k (hs hm k)
  | settings hconfig hslots => rw [State.body_congr hslots]; exact hs hconfig k
  | emptied hfree => exact hfree k

/-! ### The laws -/

theorem TableChange.liveApart {s t : State} (h : TableChange s t) (hq : s.TableQuiet) (hs : s.LiveApart) :
    t.LiveApart := by
  cases h with
  | same h => exact liveApart_of_live h.timing (fun k c hc => by rwa [h.live] at hc) hs
  | retired n r hks =>
    unfold State.retireAndRescreen
    split
    · exact hs
    · exact liveApart_rescreen (liveApart_retireAll hks n r hs)
  | granted _ _ hempty => exact liveApart_keepGranted hempty hs
  | waits _ hfree => exact liveApart_keepWaiting hfree _ hs
  | sources h => exact liveApart_afterSources h hs
  | settings hm hslots => exact liveApart_of_free fun k => by rw [State.body_congr hslots]; exact hq hm k
  | emptied hfree => exact liveApart_of_free hfree

theorem TableChange.waitListExact {s t : State} (h : TableChange s t) (hs : s.WaitListExact) : t.WaitListExact := by
  cases h with
  | same h => exact waitListExact_of_same h.waitList h.waitingClaim hs
  | retired n r hks =>
    unfold State.retireAndRescreen
    split
    · exact hs
    · exact waitListExact_rescreen (waitListExact_retireAll hks n r hs)
  | granted _ hfree => exact waitListExact_keepGranted hfree hs
  | waits _ hfree _ hnone => exact waitListExact_keepWaiting hfree hnone _ hs
  | sources h => exact waitListExact_afterSources h hs
  | settings _ hslots hlist => exact waitListExact_of_same hlist (fun k => by rw [State.body_congr hslots]) hs
  | emptied hfree hlist => exact waitListExact_of_free hfree hlist

theorem TableChange.blockersExact {s t : State} (h : TableChange s t) (hq : s.TableQuiet) (hw : s.WaitListExact)
    (hs : s.BlockersExact) : t.BlockersExact := by
  cases h with
  | same h => exact h.blockersExact hs
  | @retired ks n r hks =>
    by_cases hnone : ks = []
    · rw [hnone]; exact hs
    · obtain ⟨hnodup, -⟩ := id hw
      exact (retireAndRescreen_event s ks n r hnodup hks hnone).blockersExact hw
  | granted _ hfree => exact blockersExact_keepGranted hfree hs
  | waits _ hfree hbl => exact blockersExact_keepWaiting hfree hbl hw hs
  | sources h =>
    cases hm : s.mode with
    | run => exact blockersExact_afterSources h hm hw hs
    | config => exact blockersExact_of_free fun k => slots_afterSources_config h hm k (hq hm k)
  | settings hm hslots => exact blockersExact_of_free fun k => by rw [State.body_congr hslots]; exact hq hm k
  | emptied hfree => exact blockersExact_of_free hfree

/-! ### Answers -/

/-- A command is answered with a next state, which a chain of table changes leads to. -/
def Answered (s : State) (o : Host.Outcome State Fault Refusal) : Prop := ∃ t, o = .next t ∧ TableChanges s t

theorem sameTable_setLink (s : State) (p : Arm) (l : ArmLink) : SameTable s (s.setLink p l) := {}

theorem sameTable_setGuard (s : State) (p : Arm) (g : Guard) : SameTable s (s.setGuard p g) := {}

theorem sameTable_setRecord (s : State) (p : Arm) (r : ReportRecord) : SameTable s (s.setRecord p r) := {}

theorem sameTable_cell (s : State) (c : CellLink) : SameTable s { s with cell := c } := {}

theorem sameTable_events (s : State) (e : EventUnit) : SameTable s { s with events := e } := {}

theorem takeArmFrame_answered {s : State} {p : Arm} {owner : State → Answer} (h : TableChanges s (owner s).state)
    (kind : Byte) : Answered s (takeArmFrame p kind owner s) := by
  cases hr : s.inReset with
  | true => exact ⟨s, takeArmFrame_held hr p kind owner, .refl s⟩
  | false => exact ⟨_, takeArmFrame_next hr p kind owner, h.trans (sameTable_setLink _ p _).changes⟩

theorem takeCellFrame_answered {s : State} {owner : State → CellAnswer} (h : TableChanges s (owner s).state)
    (kind : Byte) : Answered s (takeCellFrame kind owner s) := by
  cases hr : s.inReset with
  | true => exact ⟨s, takeCellFrame_held hr kind owner, .refl s⟩
  | false => exact ⟨_, takeCellFrame_next hr kind owner, h.trans (sameTable_cell _ _).changes⟩

theorem takeEvent_answered {s : State} {effect : State → State} (h : TableChanges s (effect s)) :
    Answered s (takeEvent effect s) := by
  cases hr : s.inReset with
  | true => exact ⟨s, takeEvent_held hr effect, .refl s⟩
  | false => exact ⟨_, takeEvent_next hr effect, h⟩

/-! ### The owners of arm requests -/

theorem gateRequest_changes {s : State} {p : Arm} {owner : State → Answer}
    (h : s.mode = .run → TableChanges s (owner s).state) : TableChanges s (gateRequest p owner s).state := by
  cases hm : s.mode with
  | config => rw [gateRequest_config hm]; exact .refl s
  | run =>
    by_cases hl : s.armState p = .lost
    · rw [gateRequest_lost hm p hl]; exact .refl s
    · rw [gateRequest_pass hm p hl]; exact h hm

theorem attachOwner_changes (p : Arm) (s : State) : TableChanges s (attachOwner p s).state := by
  unfold attachOwner
  split
  · exact .refl s
  · split
    · exact .refl s
    · exact (sameTable_setGuard s p _).changes

theorem detachOwner_changes (p : Arm) (s : State) : TableChanges s (detachOwner p s).state := by
  unfold detachOwner
  split
  · exact .refl s
  · split
    · exact .refl s
    · exact ((sameTable_setGuard s p _).trans (sameTable_setRecord _ p _)).changes

theorem sameTable_returnFromLost (s : State) (p : Arm) : SameTable s (s.returnFromLost p) := by
  unfold State.returnFromLost
  dsimp only
  split <;> exact {}

theorem sameTable_takeVerdict (s : State) (p : Arm) (v : Verdict) : SameTable s (s.takeVerdict p v) := by
  have htimer : SameTable s (s.startReportTimer p) := sameTable_setGuard s p _
  unfold State.takeVerdict
  cases s.armState p with
  | detached | lost => exact .refl s
  | stopped => exact htimer.trans (sameTable_resumeCheck _ p)
  | run =>
    dsimp only
    split
    · exact htimer
    · exact htimer.trans (sameTable_enterStopped _ p _)

/-- Slots whose claims change at most from one live state to another, or in their timers. -/
theorem sameTable_mapBodies {s : State} {f : Fin 24 → SlotBody → SlotBody}
    (h : ∀ k b, (f k b).standing = b.standing) : SameTable s (s.mapBodies f) where
  claims k := by rw [State.body_mapBodies]; exact h k _
  waitList := s.mapBodies_waitList f
  timing := s.mapBodies_timing f
  keepOut := s.mapBodies_keepOut f
  active := State.groupActive_congr (s.mapBodies_keepOut f) (s.mapBodies_lines f)
  mode hm := s.mapBodies_mode f ▸ hm
  pending := s.mapBodies_pending f

theorem sameTable_markEntry (s : State) (p : Arm) (part : Option Box) : SameTable s (s.markEntry p part) := by
  refine sameTable_mapBodies fun k b => ?_
  cases b with
  | granted c left => dsimp only; split <;> rfl
  | _ => rfl

theorem markExit_changes (s : State) (p : Arm) (part : Option Box) : TableChanges s (s.markExit p part) := by
  unfold State.markExit
  exact TableChange.one (.retired _ _ (exits_retirable s p part))

theorem reportOwner_changes (p : Arm) (request : ProfileName) (xa ya za : Int) (speed : Nat) (s : State) :
    TableChanges s (reportOwner p request xa ya za speed s).state := by
  have htaken : ∀ e : Envelope, SameTable s
      ((((s.returnFromLost p).recordReport p request e).takeVerdict p e.last.verdict).markEntry p e.last.binPart) :=
    fun e => (((sameTable_returnFromLost s p).trans (sameTable_setRecord _ p _)).trans
      (sameTable_takeVerdict _ p _)).trans (sameTable_markEntry _ p _)
  unfold reportOwner
  dsimp only
  exact (htaken _).changes.trans (markExit_changes _ p _)

theorem decideClaim_changes {s : State} {k : Fin 24} {c : ClaimData} (hm : s.mode = .run) (hfree : s.body k = .free) :
    TableChanges s (decideClaim s k c).state := by
  unfold decideClaim
  dsimp only
  split
  · next hempty => exact (TableChange.granted hm hfree hempty).one
  · next hbl =>
    split
    · exact .refl s
    · next hnone =>
      split
      · exact .refl s
      · exact (TableChange.waits hm hfree (Bool.eq_false_iff.2 hbl) (Bool.eq_false_iff.2 hnone)).one

theorem claimOwner_changes {s : State} (hm : s.mode = .run) (p : Arm) (cls : Byte) (box : RawBox) :
    TableChanges s (claimOwner p cls box s).state := by
  unfold claimOwner
  split
  · exact .refl s
  · split
    · exact .refl s
    · split
      · exact .refl s
      · split
        · exact .refl s
        · split
          · exact .refl s
          · next k hk =>
            obtain ⟨hfree, -⟩ := (firstFree_eq_some_iff s k).1 hk
            exact decideClaim_changes hm hfree

theorem withHandle_changes {p : Arm} {slot gen : Byte} {s : State} {act : Fin 24 → ClaimData → Answer}
    (h : ∀ k c, (s.body k).claim = some c → TableChanges s (act k c).state) :
    TableChanges s (withHandle p slot gen s act).state := by
  unfold withHandle
  split
  · exact .refl s
  · next k _ =>
    split
    · exact .refl s
    · next c hc =>
      split
      · exact h k c hc
      · exact .refl s

theorem sameTable_setBody {s : State} {k : Fin 24} {b : SlotBody} (h : b.standing = (s.body k).standing) :
    SameTable s (s.setBody k b) where
  claims j := by
    rw [State.body_setBody]
    split
    · next hj => subst hj; exact h
    · rfl

theorem retiredOne_changes {s : State} {k : Fin 24} {c : ClaimData} (h : (s.body k).claim = some c)
    (n : Option NoticeKind) : TableChanges s (s.retireAndRescreen [k] n false) :=
  (TableChange.retired n false (.single (by rw [h]; rfl))).one

/-- A GRANTED or OCCUPIED claim that RELEASE retires or leaves RELEASING, by the last bin part (R83). -/
theorem releaseLive_changes {s : State} {k : Fin 24} {c : ClaimData} (h : (s.body k).live = some c) (p : Arm) :
    TableChanges s (if partIntersects (s.binPart p) c.box then
        { state := s.setBody k (.releasing c), result := .releasing, data := .empty }
      else
        { state := s.retireAndRescreen [k] none false, result := .retired, data := .empty } : Answer).state := by
  split
  · exact (sameTable_setBody (standing_of_live h rfl)).changes
  · exact retiredOne_changes (live_isSome_claim h) none

theorem releaseOwner_changes (p : Arm) (slot gen : Byte) (s : State) :
    TableChanges s (releaseOwner p slot gen s).state := by
  refine withHandle_changes fun k c hc => ?_
  unfold releaseSlot
  cases hb : s.body k with
  | free | waiting | releasing => exact .refl s
  | granted d left | occupied d =>
    rw [hb] at hc
    cases hc
    exact releaseLive_changes (by rw [hb]; rfl) p

theorem cancelOwner_changes (p : Arm) (slot gen : Byte) (s : State) :
    TableChanges s (cancelOwner p slot gen s).state := by
  refine withHandle_changes fun k c hc => ?_
  split
  · exact retiredOne_changes hc none
  · exact .refl s

theorem ackstopOwner_changes (p : Arm) (s : State) : TableChanges s (ackstopOwner p s).state := by
  unfold ackstopOwner
  split
  · exact .refl s
  · exact ((sameTable_setGuard s p _).trans (sameTable_resumeCheck _ p)).changes

/-! ### Changes of a source -/

theorem sourcesOnly_setLine (s : State) (n : Fin 8) (l : Line) : SourcesOnly s (s.setLine n l) := rfl

theorem sourcesOnly_flags (s : State) (flags : PerGroup Bool) :
    SourcesOnly s { s with keepOut := { s.keepOut with flags := flags } } := rfl

theorem configureLine_changes (s : State) (n : Fin 8) (f : LineFunction) (pol : Polarity) (debounce : Nat) :
    TableChanges s (s.configureLine n f pol debounce) := by
  unfold State.configureLine
  exact TableChange.one (.sources (sourcesOnly_setLine s n _))

theorem setFiltered_changes (s : State) (n : Fin 8) (active : Bool) : TableChanges s (s.setFiltered n active) := by
  unfold State.setFiltered
  exact TableChange.one (.sources (sourcesOnly_setLine s n _))

/-! ### The owners of commands -/

theorem configOnly_changes {s : State} {owner : State → CellAnswer}
    (h : s.mode = .config → TableChanges s (owner s).state) : TableChanges s (configOnly owner s).state := by
  cases hm : s.mode with
  | config => rw [configOnly_pass hm]; exact h hm
  | run => rw [configOnly_run hm]; exact .refl s

theorem enterConfig_changes (s : State) : TableChanges s s.enterConfig := by
  have hlist : s.enterConfig.waitList = [] := by simp only [State.enterConfig, State.tearDown]
  have hpending : s.enterConfig.pending = s.pending := by simp only [State.enterConfig, State.tearDown]
  exact TableChange.one (.emptied (body_enterConfig s) hlist hpending)

theorem enterConfigOwner_changes (s : State) : TableChanges s (enterConfigOwner s).state := by
  unfold enterConfigOwner
  split
  · exact .refl s
  · split
    · exact .refl s
    · exact enterConfig_changes s

theorem enterRunOwner_changes (s : State) : TableChanges s (enterRunOwner s).state := by
  have hrun : SameTable s { s with mode := .run } := { mode := nofun }
  unfold enterRunOwner
  split
  · exact .refl s
  · split
    · exact .refl s
    · exact hrun.changes

theorem setModeOwner_changes (target : Byte) (s : State) : TableChanges s (setModeOwner target s).state := by
  unfold setModeOwner
  split
  · exact enterConfigOwner_changes s
  · exact enterRunOwner_changes s
  · exact .refl s

theorem loadCalOwner_changes (arm : Byte) (sent : Calibration) (s : State) :
    TableChanges s (loadCalOwner arm sent s).state := by
  unfold loadCalOwner
  split
  · exact .refl s
  · next p _ => exact SameTable.changes (t := { s with cal := s.cal.set p sent.clamped }) {}

theorem loadProfileOwner_changes (arm profile : Byte) (sent : Profile) (s : State) :
    TableChanges s (loadProfileOwner arm profile sent s).state := by
  unfold loadProfileOwner
  split
  · next p n _ _ =>
    exact SameTable.changes (t := { s with profiles := s.profiles.set p ((s.profiles.get p).set n sent.clamped) }) {}
  · exact .refl s

theorem setLineOwner_changes (line func polarity debounce : Byte) (s : State) :
    TableChanges s (setLineOwner line func polarity debounce s).state := by
  unfold setLineOwner
  split
  · next n f pol _ _ _ => exact configureLine_changes s n f pol _
  · exact .refl s

theorem setGeometryOwner_changes {s : State} (hm : s.mode = .config) (geometry : Byte) :
    TableChanges s (setGeometryOwner geometry s).state := by
  unfold setGeometryOwner
  split
  · exact .refl s
  · exact TableChange.one (.settings hm rfl rfl rfl)

theorem mapFillOwner_changes {s : State} (hm : s.mode = .config) (code : Byte) (box : RawBox) :
    TableChanges s (mapFillOwner code box s).state := by
  unfold mapFillOwner
  split
  · exact .refl s
  · split
    · exact .refl s
    · exact TableChange.one (.settings hm rfl rfl rfl)

theorem mapCursorOwner_changes (index : Half) (s : State) : TableChanges s (mapCursorOwner index s).state := by
  unfold mapCursorOwner
  split <;> exact (sameTable_cell s _).changes

theorem groupSetOwner_changes (group value : Byte) (s : State) :
    TableChanges s (groupSetOwner group value s).state := by
  unfold groupSetOwner
  split
  · next g v _ _ =>
    exact TableChange.one (.sources
      (change := fun u => { u with keepOut := { u.keepOut with flags := u.keepOut.flags.set g v } })
      (sourcesOnly_flags s _))
  · exact .refl s

theorem forceProfileOwner_changes (arm value : Byte) (s : State) :
    TableChanges s (forceProfileOwner arm value s).state := by
  unfold forceProfileOwner
  split
  · exact (sameTable_setRecord s _ _).changes
  · exact .refl s

theorem stopOwner_changes (arm : Byte) (s : State) : TableChanges s (stopOwner arm s).state := by
  unfold stopOwner
  split
  · exact .refl s
  · next p _ =>
    cases s.armState p with
    | run | stopped => exact (sameTable_stopArm s p _).changes
    | detached | lost => exact .refl s

theorem resumeOwner_changes (arm : Byte) (s : State) : TableChanges s (resumeOwner arm s).state := by
  unfold resumeOwner
  split
  · exact .refl s
  · split
    · exact ((sameTable_setGuard s _ _).trans (sameTable_resumeCheck _ _)).changes
    · exact .refl s

theorem retirable_claimsOf (s : State) (p : Arm) : s.Retirable (s.claimsOf p) := by
  refine ⟨nodup_allSlots.filter _, fun k hk => ?_⟩
  obtain ⟨c, hc, -⟩ := (mem_claimsOf s p k).1 hk
  rw [hc]
  rfl

theorem purgeArmOwner_changes (arm : Byte) (s : State) : TableChanges s (purgeArmOwner arm s).state := by
  unfold purgeArmOwner
  split
  · exact .refl s
  · next p _ =>
    split
    · exact .refl s
    · exact (TableChange.retired _ _ (retirable_claimsOf s p)).one

theorem purgeClaimOwner_changes (slot gen : Byte) (s : State) :
    TableChanges s (purgeClaimOwner slot gen s).state := by
  unfold purgeClaimOwner
  split
  · exact .refl s
  · next k _ =>
    split
    · exact .refl s
    · next c hc =>
      split
      · exact .refl s
      · exact retiredOne_changes hc _

theorem setCursorOwner_changes (slot : Byte) (s : State) : TableChanges s (setCursorOwner slot s).state := by
  unfold setCursorOwner
  split <;> exact (sameTable_cell s _).changes

theorem readArmOwner_changes (arm : Byte) (s : State) : TableChanges s (readArmOwner arm s).state := by
  unfold readArmOwner
  split <;> exact .refl s

theorem sameTable_writeOutputs (s : State) (f : Fin 8 → Bool → Bool) : SameTable s (s.writeOutputs f) where
  active := (move_writeOutputs s f).groupActive

theorem sameTable_clearFlags (s : State) (named : Half) : SameTable s (s.clearFlags named) := sameTable_updSticky s _

theorem sameTable_clearErrors (s : State) (p : Arm) (named : Bool) : SameTable s (s.clearErrors p named) := by
  unfold State.clearErrors
  split
  · exact sameTable_setLink s p _
  · exact .refl s

theorem clearCountersOwner_changes (set : Byte) (s : State) : TableChanges s (clearCountersOwner set s).state := by
  have harms := (sameTable_clearErrors s .a (set.getLsbD 0)).trans (sameTable_clearErrors _ .b (set.getLsbD 1))
  have hcell : ∀ u : State,
      SameTable u (if set.getLsbD 2 then { u with cell := { u.cell with errors := 0 } } else u) := by
    intro u
    split
    · exact sameTable_cell u _
    · exact .refl u
  exact ((harms.trans (hcell _)).trans (sameTable_events _ _)).changes

/-! ### Failed frames, lines, timers and resets -/

theorem failFrame_changes (s : State) (link : Link) : TableChanges s (s.failFrame link) := by
  cases link with
  | arm p =>
    exact (((sameTable_setLink s p _).trans (sameTable_updSticky _ _)).trans (sameTable_setLink _ p _)).changes
  | cell => exact (((sameTable_cell s _).trans (sameTable_updSticky _ _)).trans (sameTable_cell _ _)).changes

/-- A line whose function and filtered level stay is no change of a source. -/
theorem sameTable_setLine {s : State} {n : Fin 8} {l : Line} (hfunc : l.func = (s.line n).func)
    (hfiltered : l.filtered = (s.line n).filtered) : SameTable s (s.setLine n l) where
  active g := by
    have hline : ∀ m, ((s.setLine n l).line m).func = (s.line m).func ∧
        ((s.setLine n l).line m).filtered = (s.line m).filtered := by
      intro m
      rw [State.line_setLine]
      split
      · next hm => subst hm; exact ⟨hfunc, hfiltered⟩
      · exact ⟨rfl, rfl⟩
    simp only [State.groupActive, State.groupLineActive, hline, State.setLine_keepOut]

theorem filterRaw_changes (s : State) (n : Fin 8) : TableChanges s (s.filterRaw n) := by
  unfold State.filterRaw
  dsimp only
  split
  · exact SameTable.changes (sameTable_setLine rfl rfl)
  · split
    · exact setFiltered_changes s n _
    · exact SameTable.changes (sameTable_setLine rfl rfl)

theorem changeRaw_changes (s : State) (n : Fin 8) (level : Level) : TableChanges s (s.changeRaw n level) := by
  unfold State.changeRaw
  dsimp only
  split
  · exact SameTable.changes (sameTable_setLine rfl rfl)
  · split
    · exact SameTable.changes (sameTable_setLine rfl rfl)
    · split
      · exact .refl s
      · have hwire : SameTable s (s.setLine n { s.line n with wire := level }) := sameTable_setLine rfl rfl
        exact hwire.changes.trans (filterRaw_changes _ n)

theorem lapseSlot_changes (s : State) (k : Fin 24) : TableChanges s (s.lapseSlot k) := by
  unfold State.lapseSlot
  split
  · next c hb =>
    have hclaim : (s.flagLapse.body k).claim = some c := by rw [State.flagLapse_body, hb]; rfl
    exact (sameTable_updSticky s _).changes.trans (retiredOne_changes hclaim _)
  · exact .refl s

theorem expireWait_changes (s : State) (k : Fin 24) : TableChanges s (s.expireWait k) := by
  unfold State.expireWait
  split
  · next c bl hb =>
    have hclaim : (s.flagWaitExpired.body k).claim = some c := by rw [State.flagWaitExpired_body, hb]; rfl
    exact (sameTable_updSticky s _).changes.trans (retiredOne_changes hclaim _)
  · exact .refl s

theorem retirable_waitsOf (s : State) (p : Arm) : s.Retirable (s.waitsOf p) :=
  ⟨nodup_waitsOf s p, fun _ hk => holdsWaiting_claim ((mem_waitsOf s p _).1 hk)⟩

theorem expireReportTimer_changes (s : State) (p : Arm) : TableChanges s (s.expireReportTimer p) := by
  have hlost : SameTable s (s.lostOnly p) := {}
  unfold State.expireReportTimer
  split
  · rw [enterLost_eq]
    exact hlost.changes.trans (TableChange.retired _ _ (retirable_waitsOf _ p)).one
  · exact .refl s

theorem expireFilter_changes (s : State) (n : Fin 8) : TableChanges s (s.expireFilter n) := by
  unfold State.expireFilter
  split
  · exact setFiltered_changes s n _
  · exact .refl s

theorem sameTable_tick (s : State) : SameTable s s.tick where
  claims k := by rw [body_tick]; exact standing_tick _
  waitList := by simp [State.tick]
  timing := by simp [State.tick]
  keepOut := by simp [State.tick]
  active := (moves_tick s).groupActive
  mode hm := by simpa [State.tick] using hm
  pending := by simp [State.tick]

theorem millisecond_changes (s : State) : TableChanges s s.millisecond :=
  millisecond_induction (P := TableChanges s) s (sameTable_tick s).changes (fun t k h => h.trans (lapseSlot_changes t k))
    (fun t k h => h.trans (expireWait_changes t k)) (fun t p h => h.trans (expireReportTimer_changes t p))
    fun t n h => h.trans (expireFilter_changes t n)

theorem endReset_changes (s : State) : TableChanges s s.endReset :=
  TableChange.one (.emptied (body_endReset s) rfl rfl)

theorem sameTable_setIncoming (s : State) (link : Link) (x : Option (List Byte)) : SameTable s (s.setIncoming link x) := by
  cases link with
  | arm p => exact sameTable_setLink s p _
  | cell => exact sameTable_cell s _

theorem sameTable_abandonFrames (s : State) : SameTable s s.abandonFrames :=
  ((sameTable_setIncoming s _ _).trans (sameTable_setIncoming _ _ _)).trans (sameTable_setIncoming _ _ _)

theorem sameTable_resets (s : State) (a b : Bool) : SameTable s { s with resetnLow := a, supplyLow := b } := {}

/-! ### Every command -/

/-- Every command is answered, each by its own meaning. -/
theorem exec_answered (i : Instr) (s : State) : Answered s (exec i s) := by
  cases i <;> dsimp only [exec]
  case nop => exact takeArmFrame_answered (.refl s) _
  case attach arm => exact takeArmFrame_answered (gateRequest_changes fun _ => attachOwner_changes arm s) _
  case detach arm => exact takeArmFrame_answered (gateRequest_changes fun _ => detachOwner_changes arm s) _
  case report arm arg xa ya za v =>
    refine takeArmFrame_answered ?_ _
    cases hm : s.mode with
    | config => exact .refl s
    | run => exact reportOwner_changes arm _ _ _ _ _ s
  case claim arm cls box => exact takeArmFrame_answered (gateRequest_changes fun hm => claimOwner_changes hm arm cls box) _
  case release arm slot gen =>
    exact takeArmFrame_answered (gateRequest_changes fun _ => releaseOwner_changes arm slot gen s) _
  case cancel arm slot gen =>
    exact takeArmFrame_answered (gateRequest_changes fun _ => cancelOwner_changes arm slot gen s) _
  case query arm slot gen =>
    exact takeArmFrame_answered (gateRequest_changes fun _ => withHandle_changes fun _ _ _ => .refl s) _
  case list arm start =>
    exact takeArmFrame_answered (gateRequest_changes fun _ => (sameTable_setLink s arm _).changes) _
  case ackstop arm => exact takeArmFrame_answered (gateRequest_changes fun _ => ackstopOwner_changes arm s) _
  case unknownKind link kind =>
    cases link <;> dsimp only [execUnknownKind]
    case arm p => exact takeArmFrame_answered (.refl s) _
    case cell => exact takeCellFrame_answered (.refl s) _
  case frameFailed link => exact takeEvent_answered (failFrame_changes s link)
  case setModeRun target => exact takeCellFrame_answered (setModeOwner_changes target s) _
  case setModeConfig => exact takeCellFrame_answered (setModeOwner_changes 0 s) _
  case loadCal arm c sn ox oy oz rxy rz =>
    exact takeCellFrame_answered (configOnly_changes fun _ => loadCalOwner_changes arm _ s) _
  case loadProfile arm profile decel react cap =>
    exact takeCellFrame_answered (configOnly_changes fun _ => loadProfileOwner_changes arm profile _ s) _
  case loadTiming =>
    exact takeCellFrame_answered (configOnly_changes fun hm => TableChange.one (.settings hm rfl rfl rfl)) _
  case setLine line func polarity debounce =>
    exact takeCellFrame_answered (configOnly_changes fun _ => setLineOwner_changes line func polarity debounce s) _
  case setGeometry geometry =>
    exact takeCellFrame_answered (configOnly_changes fun hm => setGeometryOwner_changes hm geometry) _
  case mapFill code box =>
    exact takeCellFrame_answered (configOnly_changes fun hm => mapFillOwner_changes hm code box) _
  case mapClear =>
    exact takeCellFrame_answered (configOnly_changes fun hm => TableChange.one (.settings hm rfl rfl rfl)) _
  case mapCursor index => exact takeCellFrame_answered (configOnly_changes fun _ => mapCursorOwner_changes index s) _
  case mapRead | readClaim => exact takeCellFrame_answered (sameTable_cell s _).changes _
  case groupSet group value => exact takeCellFrame_answered (groupSetOwner_changes group value s) _
  case forceProfile arm value => exact takeCellFrame_answered (forceProfileOwner_changes arm value s) _
  case stop arm => exact takeCellFrame_answered (stopOwner_changes arm s) _
  case resume arm => exact takeCellFrame_answered (resumeOwner_changes arm s) _
  case purgeArm arm => exact takeCellFrame_answered (purgeArmOwner_changes arm s) _
  case purgeClaim slot gen => exact takeCellFrame_answered (purgeClaimOwner_changes slot gen s) _
  case setCursor slot => exact takeCellFrame_answered (setCursorOwner_changes slot s) _
  case readArm arm => exact takeCellFrame_answered (readArmOwner_changes arm s) _
  case setOut | toggleOut => exact takeCellFrame_answered (sameTable_writeOutputs s _).changes _
  case clearEvents flags => exact takeCellFrame_answered (sameTable_clearFlags s flags).changes _
  case setMask | setAccEnable => exact takeCellFrame_answered (sameTable_events s _).changes _
  case clearCounters set => exact takeCellFrame_answered (clearCountersOwner_changes set s) _
  case cellNop | ident | readLines | readEvents | readCounters => exact takeCellFrame_answered (.refl s) _
  case lapse slot => exact takeEvent_answered (lapseSlot_changes s slot)
  case waitExpiry slot => exact takeEvent_answered (expireWait_changes s slot)
  case reportTimerExpiry arm => exact takeEvent_answered (expireReportTimer_changes s arm)
  case rawLevelChange line level => exact ⟨_, rfl, changeRaw_changes s line level⟩
  case filterTimerExpiry line => exact takeEvent_answered (expireFilter_changes s line)
  case accumulatorStep => exact takeEvent_answered (millisecond_changes s)
  case resetnAssert =>
    exact ⟨_, rfl, ((sameTable_abandonFrames s).trans (sameTable_resets s.abandonFrames true s.supplyLow)).changes⟩
  case supplyBelowPowerOnThreshold =>
    exact ⟨_, rfl, ((sameTable_abandonFrames s).trans (sameTable_resets s.abandonFrames s.resetnLow true)).changes⟩
  case resetnRelease =>
    refine ⟨_, rfl, ?_⟩
    split
    · exact (sameTable_resets s false s.supplyLow).changes
    · exact endReset_changes s
  case powerOnReset =>
    refine ⟨_, rfl, ?_⟩
    split
    · exact ((sameTable_abandonFrames s).trans (sameTable_resets s.abandonFrames s.resetnLow false)).changes
    · exact endReset_changes s

/-- Settles O2: every command is answered, and none of its changes touches the queue. -/
theorem everyCommandAnswersNext : Obligations.EveryCommandAnswersNext := by
  intro i s
  obtain ⟨t, hnext, hchanges⟩ := exec_answered i s
  exact ⟨t, hnext, hchanges.keeps (P := fun u => u.pending = s.pending) (fun h hu => h.pending.trans hu) rfl⟩

/-! ### Every step -/

/-- What each change of the table keeps every step keeps, where it does not ask for the queue. -/
theorem step_keeps_of_changes {P : State → Prop} (hP : ∀ {s t}, TableChange s t → P s → P t)
    (hpop : ∀ s rest, P s → P { s with pending := rest }) {s t : State} (h : step s = .next t) (hs : P s) : P t := by
  unfold step at h
  split at h
  · cases h
    exact hs
  · next i rest _ =>
    obtain ⟨u, hnext, hchanges⟩ := exec_answered i { s with pending := rest }
    rw [hnext] at h
    cases h
    exact hchanges.keeps hP (hpop s rest hs)

theorem State.ConfigQuiet.tableQuiet {s : State} (h : s.ConfigQuiet) : s.TableQuiet := fun hm => (h hm).1

/-- Settles O56: each change of the table keeps the live claims of different arms apart. -/
theorem stepKeepsLiveApart : Obligations.StepKeepsLiveApart := by
  intro s t hquiet hapart h
  have hboth := step_keeps_of_changes (P := fun u => u.TableQuiet ∧ u.LiveApart)
    (fun h ⟨hq, ha⟩ => ⟨h.tableQuiet hq, h.liveApart hq ha⟩) (fun _ _ hs => hs) h ⟨hquiet.tableQuiet, hapart⟩
  exact hboth.2

/-- Settles O57: each change of the table keeps the wait list exact. -/
theorem stepKeepsWaitListExact : Obligations.StepKeepsWaitListExact := by
  intro s t hwait h
  exact step_keeps_of_changes (fun h => h.waitListExact) (fun _ _ hs => hs) h hwait

/-- Settles O58: each change of the table leaves the blocker sets as screening would give them. -/
theorem stepKeepsBlockersExact : Obligations.StepKeepsBlockersExact := by
  intro s t hquiet hwait hblockers h
  have hall := step_keeps_of_changes (P := fun u => u.TableQuiet ∧ u.WaitListExact ∧ u.BlockersExact)
    (fun h ⟨hq, hw, hb⟩ => ⟨h.tableQuiet hq, h.waitListExact hw, h.blockersExact hq hw hb⟩) (fun _ _ hs => hs) h
    ⟨hquiet.tableQuiet, hwait, hblockers⟩
  obtain ⟨-, -, hexact⟩ := hall
  exact hexact

end Sys2Proof.Machine
end

section
/-! PROOFS. RELEASE and CANCEL of a claim of the arm (R66, R83, O26). -/

namespace Sys2Proof.Machine

theorem binPart_eq_bind (s : State) (p : Arm) : s.binPart p = (s.record p).last.bind fun l => l.binPart := by
  unfold State.binPart
  cases (s.record p).last <;> rfl

theorem releaseSlot_releasing {s : State} {k : Fin 24} (h : (s.body k).state = .releasing) (p : Arm) (c : ClaimData) :
    releaseSlot p s k c = { state := s, result := .releasing, data := .empty } := by
  unfold releaseSlot
  cases hb : s.body k with
  | releasing => rfl
  | free | waiting | granted | occupied => rw [hb] at h; cases h

theorem releaseSlot_held {s : State} {k : Fin 24} (h : (s.body k).state = .granted ∨ (s.body k).state = .occupied)
    (p : Arm) (c : ClaimData) :
    releaseSlot p s k c =
      if partIntersects (s.binPart p) c.box then
        { state := s.setBody k (.releasing c), result := .releasing, data := .empty }
      else { state := s.retireAndRescreen [k] none false, result := .retired, data := .empty } := by
  unfold releaseSlot
  cases hb : s.body k with
  | granted | occupied => rfl
  | free | waiting | releasing => rw [hb] at h; rcases h with h | h <;> cases h

/-- The retirement of one claim that the reply tells of. -/
theorem retireOne_event {s : State} {k : Fin 24} {c : ClaimData} (hc : (s.body k).claim = some c)
    (hw : s.WaitListExact) : TableEvent s (s.retireAndRescreen [k] none false) [k] none false id := by
  obtain ⟨hnodup, -⟩ := hw
  exact retireAndRescreen_event s [k] none false hnodup (.single (by rw [hc]; rfl)) (List.cons_ne_nil k [])

/-- Settles O26: past the gates and the handle checks, the claim's state and the bin part decide. -/
theorem releaseAndCancel : Obligations.ReleaseAndCancel := by
  intro p slot gen s k c hr hm hl hk hc ho
  have hrelease : ∀ a, releaseSlot p s k c = a →
      exec (.release p slot gen) s = .next (a.state.replyArm p 0x05 a.result a.data) := fun a ha =>
    takeArmFrame_gated (owner := releaseOwner p slot gen) hr hm hl
      ((withHandle_named hk hc p _).trans ((if_pos ho).trans ha)) 0x05
  refine ⟨binPart_eq_bind s p, fun hheld => ⟨fun hin => ?_, fun hout hw => ?_⟩, fun hreleasing => ?_, fun hwaits hw => ?_⟩
  · exact hrelease _ ((releaseSlot_held hheld p c).trans (if_pos hin))
  · exact ⟨_, hrelease _ ((releaseSlot_held hheld p c).trans (if_neg (by rw [hout]; exact Bool.false_ne_true))),
      retireOne_event hc hw⟩
  · exact hrelease _ (releaseSlot_releasing hreleasing p c)
  · have hcancel : cancelOwner p slot gen s =
        { state := s.retireAndRescreen [k] none false, result := .retired, data := .empty } :=
      (withHandle_named hk hc p _).trans ((if_pos ho).trans (if_pos ((state_eq_waiting_iff _).1 hwaits)))
    exact ⟨_, takeArmFrame_gated hr hm hl hcancel 0x06, retireOne_event hc hw⟩

end Sys2Proof.Machine
end

section
/-! PROOFS. The re-screen reads no blocker set and no REVOKED flag, and with that the table's part in an activation of a
group as one event of the table (R70, R158). -/

namespace Sys2Proof.Machine

/-! ### The REVOKED flag across a re-screen -/

theorem queueNotice_flagRevoked (s : State) (p : Arm) (n : Notice) :
    s.flagRevoked.queueNotice p n = (s.queueNotice p n).flagRevoked := by
  unfold State.queueNotice
  rw [State.flagRevoked_link]
  dsimp only
  split <;> rfl

theorem grantWaiting_flagRevoked (s : State) (k : Fin 24) (c : ClaimData) :
    s.flagRevoked.grantWaiting k c = (s.grantWaiting k c).flagRevoked := by
  unfold State.grantWaiting
  dsimp only
  rw [← queueNotice_flagRevoked]
  rfl

theorem rescreenFrom_flagRevoked (rest : List (Fin 24)) : ∀ (ahead : List (Fin 24)) (s : State),
    rescreenFrom ahead rest s.flagRevoked = (rescreenFrom ahead rest s).flagRevoked := by
  induction rest with
  | nil => exact fun _ _ => rfl
  | cons k rest ih =>
    intro ahead s
    have hscreen : ∀ p box ahd, s.flagRevoked.screen p box ahd = s.screen p box ahd := fun _ _ _ => rfl
    simp only [rescreenFrom, State.flagRevoked_body, hscreen, grantWaiting_flagRevoked, ih]
    cases s.body k with
    | waiting c left bl =>
      dsimp only
      split
      · rfl
      · exact ih _ (s.setBody k _)
    | _ => rfl

theorem rescreen_flagRevoked (s : State) : s.flagRevoked.rescreen = s.rescreen.flagRevoked :=
  rescreenFrom_flagRevoked s.waitList [] s

/-- The flag that an event's cause names may be set behind it too. -/
theorem TableEvent.flagRevoked {s t : State} {ks : List (Fin 24)} {kind : Option NoticeKind} {r : Bool}
    (h : TableEvent s t ks kind r id) : TableEvent s t.flagRevoked ks kind r fun f => { f with revoked := true } where
  frame := h.frame.trans (TableFrame.updSticky t _)
  retired := h.retired
  others := h.others
  decided := h.decided
  waitList := h.waitList
  notices q := by
    obtain ⟨gs, hnodup, hmem, hqueued⟩ := h.notices q
    exact ⟨gs, hnodup, hmem, hqueued.queue, hqueued.lost, hqueued.flag, hqueued.kept⟩
  places := h.places
  sticky := congrArg (fun f : StickyFlags => { f with revoked := true }) h.sticky

/-! ### Blocker sets across a re-screen -/

/-- Two tables that differ in the blocker sets of the waits of a list alone. -/
structure BlockersApart (rest : List (Fin 24)) (u v : State) : Prop where
  frame : v = { u with slots := v.slots }
  gens : ∀ j, (v.slot j).gen = (u.slot j).gen
  bodies : ∀ j, v.body j = u.body j ∨
    j ∈ rest ∧ ∃ c left bl bl', u.body j = .waiting c left bl ∧ v.body j = .waiting c left bl'

theorem queueNotice_slots (s : State) (w : Vector Slot 24) (p : Arm) (n : Notice) :
    { s with slots := w }.queueNotice p n = { s.queueNotice p n with slots := w } := by
  unfold State.queueNotice
  dsimp only
  split
  · next hroom => rw [if_pos (show (s.link p).queue.length < Config.noticeCapacity from hroom)]; rfl
  · next hfull => rw [if_neg (show ¬ (s.link p).queue.length < Config.noticeCapacity from hfull)]; rfl

section
variable {u v : State} {k : Fin 24} {rest : List (Fin 24)}

theorem BlockersApart.eq (h : BlockersApart [] u v) : v = u := by
  have hslot : ∀ j, v.slot j = u.slot j := fun j => by
    have hbody := (h.bodies j).resolve_right fun ⟨hmem, _⟩ => List.not_mem_nil hmem
    exact congrArg₂ Slot.mk (h.gens j) hbody
  rw [h.frame, State.slots_ext hslot]

theorem BlockersApart.screen (h : BlockersApart rest u v) : v.screen = u.screen := by
  have htiming : v.timing = u.timing := by rw [h.frame]
  funext p box ahead
  refine screen_eq (fun j => ?_) (State.activeGroupsTouched_congr (by rw [h.frame]) (by rw [h.frame]) box)
  obtain hb | ⟨-, c, left, bl, bl', hu, hv⟩ := h.bodies j
  · exact blocksCandidate_body_congr hb htiming p box ahead
  · exact blocksCandidate_congr (by rw [hu, hv]; rfl) (by rw [hu, hv]; rfl) htiming p box ahead

/-- Once the walk has written a slot, the tables agree there. -/
theorem BlockersApart.bodies_written (h : BlockersApart (k :: rest) u v) (b : SlotBody) (j : Fin 24) :
    (if j = k then b else v.body j) = (if j = k then b else u.body j) ∨
      j ∈ rest ∧ ∃ c left bl bl', (if j = k then b else u.body j) = .waiting c left bl ∧
        (if j = k then b else v.body j) = .waiting c left bl' := by
  by_cases hj : j = k
  · exact .inl (by rw [if_pos hj, if_pos hj])
  · rw [if_neg hj, if_neg hj]
    exact (h.bodies j).imp_right fun ⟨hmem, hblockers⟩ => ⟨(List.mem_cons.1 hmem).resolve_left hj, hblockers⟩

theorem BlockersApart.setBody (h : BlockersApart (k :: rest) u v) (b : SlotBody) :
    BlockersApart rest (u.setBody k b) (v.setBody k b) where
  frame := congrArg (fun w : State => { w with slots := (v.setBody k b).slots }) h.frame
  gens j := by rw [State.gen_setBody, State.gen_setBody, h.gens]
  bodies j := by rw [State.body_setBody, State.body_setBody]; exact h.bodies_written b j

theorem BlockersApart.entryMs (h : BlockersApart rest u v) : v.entryMs = u.entryMs := by rw [h.frame]; rfl

theorem BlockersApart.grantWaiting_eq (h : BlockersApart (k :: rest) u v) (c : ClaimData) :
    v.grantWaiting k c = { u.grantWaiting k c with slots := (v.setBody k (.granted c v.entryMs)).slots } := by
  have hbase : ({ v.setBody k (.granted c v.entryMs) with waitList := v.waitList.filter fun j => j != k } : State) =
      { { u.setBody k (.granted c u.entryMs) with waitList := u.waitList.filter fun j => j != k } with
        slots := (v.setBody k (.granted c v.entryMs)).slots } :=
    congrArg (fun w : State =>
      { w with
        slots := (v.setBody k (.granted c v.entryMs)).slots, waitList := w.waitList.filter fun j => j != k }) h.frame
  calc v.grantWaiting k c
      = ({ v.setBody k (.granted c v.entryMs) with waitList := v.waitList.filter fun j => j != k } : State).queueNotice
          c.owner (noticeOf v .granted k) := rfl
    _ = _ := by rw [hbase, noticeOf_congr (h.gens k), queueNotice_slots]; rfl

theorem BlockersApart.grantWaiting (h : BlockersApart (k :: rest) u v) (c : ClaimData) :
    BlockersApart rest (u.grantWaiting k c) (v.grantWaiting k c) where
  frame := by
    obtain ⟨-, -, -, hslots, -⟩ := grantWaiting_frame v k c
    rw [hslots]
    exact h.grantWaiting_eq c
  gens j := by rw [gen_grantWaiting, gen_grantWaiting, h.gens]
  bodies j := by
    rw [body_grantWaiting, body_grantWaiting, h.entryMs]
    exact h.bodies_written _ j

/-- Where the walk finds no wait there is nothing to write. -/
theorem BlockersApart.skip (h : BlockersApart (k :: rest) u v) (hk : (u.body k).waitingClaim = none) :
    BlockersApart rest u v where
  frame := h.frame
  gens := h.gens
  bodies j := (h.bodies j).imp_right fun ⟨hmem, c, left, bl, bl', hu, hv⟩ => by
    refine ⟨(List.mem_cons.1 hmem).resolve_left ?_, c, left, bl, bl', hu, hv⟩
    rintro rfl
    rw [hu] at hk
    cases hk

end

theorem rescreenFrom_blockersApart (rest : List (Fin 24)) : ∀ (ahead : List (Fin 24)) (u v : State),
    BlockersApart rest u v → rescreenFrom ahead rest v = rescreenFrom ahead rest u := by
  induction rest with
  | nil => exact fun _ _ _ h => h.eq
  | cons k rest ih =>
    intro ahead u v h
    cases hu : u.body k with
    | waiting c left bl =>
      have hv : ∃ bl', v.body k = .waiting c left bl' := by
        obtain hb | ⟨-, d, left', bl₁, bl₂, hd, hv⟩ := h.bodies k
        · exact ⟨bl, hb.trans hu⟩
        · rw [hu] at hd
          cases hd
          exact ⟨bl₂, hv⟩
      obtain ⟨bl', hv⟩ := hv
      simp only [rescreenFrom, hu, hv, h.screen]
      split
      · exact ih ahead _ _ (h.grantWaiting c)
      · exact ih _ _ _ (h.setBody _)
    | _ =>
      have hnone : (u.body k).waitingClaim = none := by rw [hu]; rfl
      have hv : v.body k = _ := ((h.bodies k).resolve_right fun ⟨_, c, left, bl, _, hc, _⟩ => by
        rw [hu] at hc; cases hc).trans hu
      simp only [rescreenFrom, hu, hv]
      exact ih ahead u v (h.skip hnone)

/-! ### The table's part in an activation -/

theorem gen_joinGroup (s : State) (g : Group) (k : Fin 24) : ((s.joinGroup g).slot k).gen = (s.slot k).gen := by
  unfold State.joinGroup
  rw [State.slot_mapBodies]

theorem blockersApart_joinGroup {s : State} (hw : s.WaitListExact) (g : Group) :
    BlockersApart s.waitList s (s.joinGroup g) where
  frame := rfl
  gens := gen_joinGroup s g
  bodies j := by
    obtain ⟨-, hmem, -⟩ := hw
    cases hb : s.body j with
    | waiting c left bl =>
      exact .inr ⟨(hmem j).2 (by rw [hb]; rfl), c, left, bl, _, rfl, body_joinGroup_waiting hb⟩
    | _ => exact .inl ((body_joinGroup_of_not_waiting (by rw [hb]; rfl) g).trans hb)

theorem rescreen_joinGroup {s : State} (hw : s.WaitListExact) (g : Group) : (s.joinGroup g).rescreen = s.rescreen := by
  unfold State.rescreen
  rw [waitList_joinGroup]
  exact rescreenFrom_blockersApart _ [] _ _ (blockersApart_joinGroup hw g)

/-- An activation that revokes claims is their retirement with its re-screen: what the waits gain in between, the walk
writes over (R70, R158). -/
theorem tableActivate_eq {s : State} {g : Group} (hw : s.WaitListExact) (hks : s.revoked g ≠ []) :
    s.tableActivate g = (s.retireAll (s.revoked g) (some .revoked) false).rescreen.flagRevoked := by
  have hretired := waitListExact_retireAll (retirable_revoked s g) (some .revoked) false hw
  rw [tableActivate_of_some hks, State.activating, rescreen_flagRevoked, rescreen_joinGroup hretired]

theorem tableActivate_event {s : State} {g : Group} (hw : s.WaitListExact) (hks : s.revoked g ≠ []) :
    TableEvent s (s.tableActivate g) (s.revoked g) (some .revoked) false fun f => { f with revoked := true } := by
  obtain ⟨hnodup, -⟩ := id hw
  rw [tableActivate_eq hw hks]
  exact (retireAll_rescreen_event s _ _ false hnodup (retirable_revoked s g)).flagRevoked

theorem tableActivate_frame {s : State} {g : Group} (hw : s.WaitListExact) : TableFrame s (s.tableActivate g) := by
  by_cases hks : s.revoked g = []
  · rw [tableActivate_of_none hks]
    exact joinGroup_frame s g
  · exact (tableActivate_event hw hks).frame

end Sys2Proof.Machine
end

section
/-! PROOFS. The activation of a group in device RUN: what the guard controllers and the records take from it, and the
changes of a flag and of a line that make it (R130, R154 to R159, O44). -/

namespace Sys2Proof.Machine

/-! ### A guard controller's part in an activation -/

/-- Group g touches arm P's last bin part (R130). -/
def State.hitBy (s : State) (g : Group) (p : Arm) : Bool := s.partTouches (s.binPart p) g

section
variable (s : State) (g : Group) (p : Arm)

theorem guardActivate_cases :
    (s.hitBy g p = true ∧ s.guardActivate g p = s.stopArm p .intrusion) ∨
      (s.hitBy g p = false ∧ s.guardActivate g p = s) := by
  unfold State.guardActivate State.hitBy
  cases s.partTouches (s.binPart p) g with
  | true => exact .inl ⟨rfl, rfl⟩
  | false => exact .inr ⟨rfl, rfl⟩

theorem guard_guardActivate (q : Arm) :
    (s.guardActivate g p).guard q =
      if q = p ∧ s.hitBy g p = true ∧ (s.armState p = .run ∨ s.armState p = .stopped) then
        (s.guard p).stoppedBy .intrusion
      else s.guard q := by
  obtain ⟨hhit, he⟩ | ⟨hhit, he⟩ := guardActivate_cases s g p
  · simp only [he, hhit, guard_stopArm, true_and]
  · simp [he, hhit]

theorem record_guardActivate (q : Arm) :
    (s.guardActivate g p).record q =
      { s.record q with
        fresh := (s.record q).fresh && !decide (q = p ∧ s.hitBy g p = true ∧ s.armState p = .run) } := by
  obtain ⟨hhit, he⟩ | ⟨hhit, he⟩ := guardActivate_cases s g p
  · simp only [he, hhit, record_stopArm, true_and]
  · simp [he, hhit]

theorem events_guardActivate :
    (s.guardActivate g p).events =
      { s.events with
        sticky :=
          { s.events.sticky with
            stop := s.events.sticky.stop.set p
              (s.events.sticky.stop.get p || decide (s.hitBy g p = true ∧ s.armState p = .run)) } } := by
  obtain ⟨hhit, he⟩ | ⟨hhit, he⟩ := guardActivate_cases s g p
  · simp only [he, hhit, events_stopArm, true_and]
  · cases p <;> simp [he, hhit, PerArm.set, PerArm.get]

theorem frame_guardActivate :
    { (s.guardActivate g p) with guards := s.guards, records := s.records, events := s.events } = s := by
  obtain ⟨-, he⟩ | ⟨-, he⟩ := guardActivate_cases s g p
  · rw [he]
    exact frame_stopArm s p .intrusion
  · rw [he]

theorem hitBy_guardActivate (q : Arm) : (s.guardActivate g p).hitBy g q = s.hitBy g q := by
  have hframe := congrArg State.keepOut (frame_guardActivate s g p)
  have hkeepOut : (s.guardActivate g p).keepOut = s.keepOut := hframe
  unfold State.hitBy State.partTouches State.binPart
  rw [hkeepOut, record_guardActivate]

end

/-! ### Both guard controllers -/

/-- Both guard controllers' part in the activation of a group (R130). -/
def State.guardsActivate (s : State) (g : Group) : State := (s.guardActivate g .a).guardActivate g .b

section
variable (s : State) (g : Group)

theorem armState_guardActivate_a : (s.guardActivate g .a).armState .b = s.armState .b := by
  unfold State.armState
  rw [guard_guardActivate, if_neg (fun h => nomatch h.1)]

theorem guard_guardsActivate (p : Arm) :
    (s.guardsActivate g).guard p =
      if s.hitBy g p = true ∧ (s.armState p = .run ∨ s.armState p = .stopped) then (s.guard p).stoppedBy .intrusion
      else s.guard p := by
  unfold State.guardsActivate
  rw [guard_guardActivate, hitBy_guardActivate, armState_guardActivate_a, guard_guardActivate, guard_guardActivate]
  cases p <;> simp

theorem record_guardsActivate (p : Arm) :
    (s.guardsActivate g).record p =
      { s.record p with
        fresh := (s.record p).fresh && !decide (s.hitBy g p = true ∧ s.armState p = .run) } := by
  unfold State.guardsActivate
  rw [record_guardActivate, record_guardActivate, hitBy_guardActivate, armState_guardActivate_a]
  cases p <;> simp

theorem events_guardsActivate :
    (s.guardsActivate g).events = { s.events with sticky := { s.events.sticky with stop :=
      { a := s.events.sticky.stop.a || decide (s.hitBy g .a = true ∧ s.armState .a = .run)
        b := s.events.sticky.stop.b || decide (s.hitBy g .b = true ∧ s.armState .b = .run) } } } := by
  unfold State.guardsActivate
  rw [events_guardActivate, events_guardActivate, hitBy_guardActivate, armState_guardActivate_a]
  rfl

theorem frame_guardsActivate :
    { (s.guardsActivate g) with guards := s.guards, records := s.records, events := s.events } = s := by
  have ha := frame_guardActivate s g .a
  have hb := congrArg (fun u : State => { u with guards := s.guards, records := s.records, events := s.events })
    (frame_guardActivate (s.guardActivate g .a) g .b)
  exact hb.trans ha

end

/-! ### Both kept INTRUSIONs -/

/-- The kept INTRUSION of both records is brought up to date (R118, R159). -/
def State.keepIntrusions (s : State) : State := (s.keepIntrusion .a).keepIntrusion .b

theorem frame_keepIntrusions (s : State) : { s.keepIntrusions with records := s.records } = s :=
  (congrArg (fun u : State => { u with records := s.records }) (frame_keepIntrusion (s.keepIntrusion .a) .b)).trans
    (frame_keepIntrusion s .a)

theorem record_keepIntrusions (s : State) (p : Arm) :
    s.keepIntrusions.record p =
      { s.record p with last := (s.record p).last.map fun l =>
          { l with verdict := { l.verdict with intrusion := s.partIntrudes l.binPart } } } := by
  have hkeepOut := congrArg State.keepOut (frame_keepIntrusion s .a)
  have hlines := congrArg State.lines (frame_keepIntrusion s .a)
  have hintrudes : (s.keepIntrusion .a).partIntrudes = s.partIntrudes :=
    funext (State.partIntrudes_congr hkeepOut hlines)
  unfold State.keepIntrusions
  rw [record_keepIntrusion, hintrudes, record_keepIntrusion, record_keepIntrusion]
  cases p <;> simp

/-! ### The whole activation -/

section
variable {s : State} {g : Group}

/-- What the guard controllers find after the table's part is what they would have found before it. -/
theorem TableFrame.hitBy {t : State} (h : TableFrame s t) (p : Arm) : t.hitBy g p = s.hitBy g p := by
  have hpart : t.binPart p = s.binPart p := by
    rw [binPart_eq_bind, binPart_eq_bind]
    obtain he | ⟨l, hl, -, he⟩ := h.records p
    · rw [he]
    · rw [he, hl]
      rfl
  unfold State.hitBy State.partTouches
  rw [hpart, h.keepOut]

theorem TableFrame.guard {t : State} (h : TableFrame s t) (p : Arm) : t.guard p = s.guard p := by
  unfold State.guard
  rw [h.guards]

theorem TableFrame.fresh {t : State} (h : TableFrame s t) (p : Arm) : (t.record p).fresh = (s.record p).fresh := by
  obtain he | ⟨l, -, -, he⟩ := h.records p <;> rw [he]

theorem groupActivated_eq (hm : s.mode = .run) :
    s.groupActivated g = ((s.tableActivate g).guardsActivate g).keepIntrusions := if_pos hm

theorem pairwise_revoked (s : State) (g : Group) : (s.revoked g).Pairwise (· < ·) := pairwise_allSlots.filter _

/-- A slot of a table in which the waits have gained the group. -/
theorem slot_of_joined {m : State} (hm : m = s.joinGroup g) (k : Fin 24) :
    m.slot k =
      { s.slot k with body :=
          match s.body k with
          | .waiting c left bl =>
            .waiting c left (if s.keepOut.touchesGroup c.box g = true then bl.addGroup g else bl)
          | other => other } := by
  have hgen : (m.slot k).gen = (s.slot k).gen := by rw [hm]; exact gen_joinGroup s g k
  have hbody : m.body k =
      match s.body k with
      | .waiting c left bl => .waiting c left (if s.keepOut.touchesGroup c.box g = true then bl.addGroup g else bl)
      | other => other := by
    rw [hm]
    cases hb : s.body k with
    | waiting c left bl => exact body_joinGroup_waiting hb
    | _ => exact (body_joinGroup_of_not_waiting (by rw [hb]; rfl) g).trans hb
  exact congrArg₂ Slot.mk hgen hbody

theorem frame_of_joined {m : State} (hm : m = s.joinGroup g) : { m with slots := s.slots } = s := by
  rw [hm]
  unfold State.joinGroup State.mapBodies
  rfl

/-- What the guard controllers and the records take from an activation, once the table has taken its part. -/
theorem groupActivates_of_table {m : State} {ks : List (Fin 24)} (hframe : TableFrame s m)
    (hsorted : ks.Pairwise (· < ·))
    (hmem : ∀ k, k ∈ ks ↔ ∃ c left, s.body k = .granted c left ∧ s.keepOut.touchesGroup c.box g = true)
    (hnone : ks = [] → m = s.joinGroup g)
    (hsome : ks ≠ [] → TableEvent s m ks (some .revoked) false fun f => { f with revoked := true }) :
    GroupActivates s (m.guardsActivate g).keepIntrusions g := by
  have harm : ∀ p, m.armState p = s.armState p := fun p => congrArg Guard.state (hframe.guard p)
  have hkept := frame_keepIntrusions (m.guardsActivate g)
  have hguards := congrArg State.guards hkept
  have hevents := congrArg State.events hkept
  have hacted := frame_guardsActivate m g
  have hkeepOut := congrArg State.keepOut hacted
  have hlines := congrArg State.lines hacted
  have hintrudes : (m.guardsActivate g).partIntrudes = s.partIntrudes :=
    funext (State.partIntrudes_congr (hkeepOut.trans hframe.keepOut) (hlines.trans hframe.lines))
  refine ⟨m, ks, hsorted, hmem, ?_, fun p => ?_, fun p => ?_, ?_, ?_⟩
  · split
    · next hks => exact ⟨slot_of_joined (hnone hks), frame_of_joined (hnone hks)⟩
    · next hks => exact hsome hks
  · have hguard : (m.guardsActivate g).keepIntrusions.guard p = (m.guardsActivate g).guard p :=
      congrArg (·.get p) hguards
    rw [hguard, guard_guardsActivate, hframe.hitBy, harm, hframe.guard]
    rfl
  · rw [record_keepIntrusions, hintrudes, record_guardsActivate, hframe.hitBy, harm, hframe.fresh]
    rfl
  · refine hevents.trans ?_
    rw [events_guardsActivate, hframe.hitBy, hframe.hitBy, harm, harm]
    rfl
  · exact (congrArg (fun u : State => { u with guards := m.guards, records := m.records, events := m.events }) hkept).trans
      hacted

/-- What the activation does in device RUN is what `GroupActivates` says (R158, R159). -/
theorem groupActivated_activates (hm : s.mode = .run) (hw : s.WaitListExact) :
    GroupActivates s (s.groupActivated g) g := by
  rw [groupActivated_eq hm]
  exact groupActivates_of_table (tableActivate_frame hw) (pairwise_revoked s g) (mem_revoked s g) tableActivate_of_none
    (tableActivate_event hw)

end

end Sys2Proof.Machine
end

section
/-! PROOFS. The two changes that activate a group in device RUN, by GROUP_SET and by a GUARD_IN line (R154 to R156,
R158, O44). -/

namespace Sys2Proof.Machine

/-! ### A change of one group's sources -/

/-- A change of the sources of one group alone has the event of that group alone (R156). -/
theorem afterSources_group {s : State} {change : State → State} {g : Group}
    (hothers : ∀ h, h ≠ g → (change s).groupActive h = s.groupActive h)
    (hestop : (change s).estopActive = s.estopActive) :
    s.afterSources change = (change s).groupEvent (s.groupActive g) g := by
  have hmoves := moves_groupEvent (change s) (s.groupActive g) g
  have hbefore : ∀ h, h ≠ g → (change s).groupEvent (s.groupActive h) h = change s := fun h hh =>
    groupEvent_same (hothers h hh).symm
  have hbehind : ∀ h, h ≠ g → ((change s).groupEvent (s.groupActive g) g).groupEvent (s.groupActive h) h =
      (change s).groupEvent (s.groupActive g) g := fun h hh =>
    groupEvent_same ((hothers h hh).symm.trans (hmoves.groupActive h).symm)
  unfold State.afterSources
  cases g with
  | g1 =>
    simp only [hbehind .g2 nofun, hbehind .g3 nofun]
    exact estopEvent_same (hestop.symm.trans hmoves.estopActive.symm)
  | g2 =>
    simp only [hbefore .g1 nofun, hbehind .g3 nofun]
    exact estopEvent_same (hestop.symm.trans hmoves.estopActive.symm)
  | g3 =>
    simp only [hbefore .g1 nofun, hbefore .g2 nofun]
    exact estopEvent_same (hestop.symm.trans hmoves.estopActive.symm)

/-- A change of one group's sources that activates the group in device RUN (R156, R158). -/
theorem afterSources_activates {s : State} {change : State → State} {g : Group} (hm : s.mode = .run)
    (hw : s.WaitListExact) (hoff : s.groupActive g = false) (hon : (change s).groupActive g = true)
    (hsources : SourcesOnly s (change s)) (hothers : ∀ h, h ≠ g → (change s).groupActive h = s.groupActive h)
    (hestop : (change s).estopActive = s.estopActive) :
    GroupActivates (change s) (s.afterSources change) g := by
  obtain ⟨hmode, -⟩ := hsources.fields
  rw [afterSources_group hothers hestop, hoff, groupEvent_rise hon]
  exact groupActivated_activates (hmode.trans hm) (hsources.waitListExact hw)

theorem Moves.keepOut {s t : State} (h : Moves s t) : t.keepOut = s.keepOut :=
  h.keeps (P := fun u => u.keepOut = s.keepOut) (fun h hu => h.keepOut.trans hu) rfl

/-! ### GROUP_SET -/

theorem groupOf_mapCode {b : Byte} {g : Group} (h : b.toNat = mapCode (some g)) : groupOf b = some g := by
  unfold groupOf
  rw [h]
  cases g <;> rfl

theorem flagValueOf_one {b : Byte} (h : b.toNat = 1) : flagValueOf b = some true := by
  unfold flagValueOf
  rw [h]
  rfl

/-- The supervisor flag of group g takes a value (R155). -/
def State.setFlag (s : State) (g : Group) (v : Bool) : State :=
  { s with keepOut := { s.keepOut with flags := s.keepOut.flags.set g v } }

/-- A flag is a source of its own group alone (R154). -/
theorem groupActive_setFlag (s : State) (g : Group) (v : Bool) (h : Group) :
    (s.setFlag g v).groupActive h = if h = g then v || s.groupLineActive g else s.groupActive h := by
  show ((s.keepOut.flags.set g v).get h || s.groupLineActive h) = _
  rw [PerGroup.get_set]
  split
  · next hh => rw [hh]
  · rfl

/-- GROUP_SET that is taken answers OK with the flags and activities as they stand after the change of the flag alone
(R155): what follows from it touches neither. -/
theorem groupSet_next {s : State} {group value : Byte} {g : Group} {v : Bool} (hr : s.inReset = false)
    (hg : groupOf group = some g) (hv : flagValueOf value = some v) :
    exec (.groupSet group value) s =
      .next ((s.afterSources fun u => u.setFlag g v).replyCell 0x0C .ok false
        (.groups (s.setFlag g v).keepOut.flags (s.setFlag g v).activities)) := by
  have howner : groupSetOwner group value s =
      let t := s.afterSources fun u => u.setFlag g v
      { state := t, result := .ok, clamped := false, data := .groups t.keepOut.flags t.activities } := by
    unfold groupSetOwner
    rw [hg, hv]
    rfl
  have hnext := takeCellFrame_next hr 0x0C (groupSetOwner group value)
  have hmoves := moves_afterSources s fun u => u.setFlag g v
  have hactivities : (s.afterSources fun u => u.setFlag g v).activities = (s.setFlag g v).activities := by
    unfold State.activities
    rw [hmoves.groupActive, hmoves.groupActive, hmoves.groupActive]
  rw [howner] at hnext
  dsimp only at hnext
  rw [hmoves.keepOut, hactivities] at hnext
  exact hnext

/-- Setting the flag of an inactive group activates it in device RUN. -/
theorem setFlag_activates {s : State} {g : Group} (hm : s.mode = .run) (hw : s.WaitListExact)
    (hoff : s.groupActive g = false) :
    GroupActivates (s.setFlag g true) (s.afterSources fun u => u.setFlag g true) g :=
  have hon : (s.setFlag g true).groupActive g = true := by rw [groupActive_setFlag, if_pos rfl, Bool.true_or]
  have hothers : ∀ h, h ≠ g → (s.setFlag g true).groupActive h = s.groupActive h := fun h hh => by
    rw [groupActive_setFlag, if_neg hh]
  afterSources_activates (change := fun u => u.setFlag g true) hm hw hoff hon (sourcesOnly_flags s _) hothers rfl

/-! ### A filtered level -/

theorem levelActive_eq_decide (pol : Polarity) (level : Level) :
    levelActive pol level = decide (level = .high ↔ pol = .activeHigh) := by
  cases pol <;> cases level <;> rfl

theorem isOutput_of_code_le {f : LineFunction} (h : f.code ≤ 4) : f.isOutput = false := by
  cases f with
  | unused | guardIn | estopIn => rfl
  | permitMirror p | waitOut p => cases p <;> exact absurd h (by decide)
  | alertMirror | generalOut => exact absurd h (by decide)

/-- A change of a line's filtered level is a change of a source, with all that follows from it (R167, R168). -/
theorem filteredChange_next {s s0 : State} {n : Fin 8} {i : Instr} (hr : s.inReset = false)
    (h : FilteredChange s n i s0) :
    ∃ change, change s = s0 ∧ exec i s = .next (s.afterSources change) := by
  cases h with
  | expiry hcode htimer =>
    have hinput := isOutput_of_code_le hcode
    refine ⟨fun t => t.setLine n { t.line n with filtered := levelActive (s.line n).polarity (s.line n).wire
                                                 filterTimer := none }, ?_, ?_⟩
    · dsimp only
      rw [levelActive_eq_decide]
    · have hexpire : s.expireFilter n = s.setFiltered n (levelActive (s.line n).polarity (s.line n).wire) := by
        rw [← rawLevel_of_input hinput]
        exact if_pos htimer
      exact (takeEvent_next hr _).trans (congrArg Host.Outcome.next hexpire)
  | raw level hcode hwire hnone hchanges =>
    have hinput := isOutput_of_code_le hcode
    rw [← levelActive_eq_decide] at hchanges
    refine ⟨fun t => t.setLine n { t.line n with wire := level, filtered := levelActive (s.line n).polarity level
                                                 filterTimer := none }, ?_, ?_⟩
    · dsimp only
      rw [levelActive_eq_decide]
    · have hraw : s.changeRaw n level = (s.setLine n { s.line n with wire := level }).filterRaw n := by
        unfold State.changeRaw
        dsimp only
        rw [hr, hinput, if_neg Bool.false_ne_true, if_neg Bool.false_ne_true, if_neg hwire]
      have hfilter : (s.setLine n { s.line n with wire := level }).filterRaw n =
          (s.setLine n { s.line n with wire := level }).setFiltered n (levelActive (s.line n).polarity level) := by
        unfold State.filterRaw
        simp only [State.line_setLine_self]
        rw [if_neg hchanges, if_pos hnone]
      refine congrArg Host.Outcome.next (hraw.trans (hfilter.trans ?_))
      exact afterSources_wire s n level _ _ (by rw [State.line_setLine_self, setLine_setLine])

theorem FilteredChange.setLine {s s0 : State} {n : Fin 8} {i : Instr} (h : FilteredChange s n i s0) :
    ∃ l, l.func = (s.line n).func ∧ s0 = s.setLine n l := by
  cases h with
  | expiry => exact ⟨{ s.line n with filtered := _, filterTimer := none }, rfl, rfl⟩
  | raw level => exact ⟨{ s.line n with wire := level, filtered := _, filterTimer := none }, rfl, rfl⟩

/-- A line is a source of its own function alone (R154, R168). -/
theorem sourceLine_other {s : State} {n : Fin 8} {l : Line} {f : LineFunction} (hfunc : l.func = (s.line n).func)
    (hother : (s.line n).func ≠ f) (m : Fin 8) :
    (((s.setLine n l).line m).func == f && ((s.setLine n l).line m).filtered) =
      ((s.line m).func == f && (s.line m).filtered) := by
  rw [State.line_setLine]
  split
  · next hm =>
    subst hm
    rw [hfunc, beq_eq_false_iff_ne.2 hother, Bool.false_and, Bool.false_and]
  · rfl

/-- Settles O44: a flag or a line that activates a group has the one event that `GroupActivates` tells of. -/
theorem groupActivation : Obligations.GroupActivation := by
  intro g s hr hm hw hoff
  refine ⟨fun group value hgroup hvalue => ⟨_, groupSet_next hr (groupOf_mapCode hgroup) (flagValueOf_one hvalue),
    setFlag_activates hm hw hoff⟩, fun n i s0 hfunc hchange hon => ?_⟩
  obtain ⟨change, rfl, hexec⟩ := filteredChange_next hr hchange
  obtain ⟨l, hl, hs0⟩ := hchange.setLine
  have hothers : ∀ h, h ≠ g → (change s).groupActive h = s.groupActive h := fun h hh => by
    have hne : (s.line n).func ≠ .guardIn h := by
      rw [hfunc]
      intro he
      cases he
      exact hh rfl
    rw [hs0]
    simp only [State.groupActive, State.groupLineActive, State.setLine_keepOut, sourceLine_other hl hne]
  have hestop : (change s).estopActive = s.estopActive := by
    have hne : (s.line n).func ≠ .estopIn := by rw [hfunc]; nofun
    rw [hs0]
    simp only [State.estopActive, sourceLine_other hl hne]
  have hsources : SourcesOnly s (change s) := by rw [hs0]; exact sourcesOnly_setLine s n l
  exact ⟨_, hexec, afterSources_activates hm hw hoff hon hsources hothers hestop⟩

end Sys2Proof.Machine
end

section
/-! PROOFS. PURGE_ARM and PURGE_CLAIM of an arm that does not run (R92, R93): O41. -/

namespace Sys2Proof.Machine

/-- A retirement of no claim changes nothing (R69). -/
theorem retireAndRescreen_of_none {s : State} {ks : List (Fin 24)} (h : ks = []) (kind : Option NoticeKind)
    (r : Bool) : s.retireAndRescreen ks kind r = s := by
  rw [h]
  rfl

theorem purgeArmOwner_named {s : State} {arm : Byte} {p : Arm} (h : arm.toNat = armCode p) :
    purgeArmOwner arm s =
      if s.armState p = .run then refuseCell s .refusedState
      else okPurged (s.retireAndRescreen (s.claimsOf p) (some .purged) false) (s.countOf p) := by
  unfold purgeArmOwner
  rw [(armOf_eq_some arm p).2 h]

theorem purgeClaimOwner_stale {s : State} {slot gen : Byte} (h : ∀ k, ¬ HandleNames s slot gen k) :
    purgeClaimOwner slot gen s = refuseCell s .staleHandle := by
  have hnone : s.findHandle slot gen = none := Option.eq_none_iff_forall_ne_some.2 fun k hk =>
    h k ((findHandle_eq_some s slot gen k).1 hk)
  unfold purgeClaimOwner
  rw [hnone]

theorem purgeClaimOwner_named {s : State} {slot gen : Byte} {k : Fin 24} {c : ClaimData}
    (h : HandleNames s slot gen k) (hc : (s.body k).claim = some c) :
    purgeClaimOwner slot gen s =
      if s.armState c.owner = .run then refuseCell s .refusedState
      else okPurged (s.retireAndRescreen [k] (some .purged) false) 1 := by
  unfold purgeClaimOwner
  rw [(findHandle_eq_some s slot gen k).2 h]
  simp only [hc]

/-- Settles O41: each owner's answer, and the one event of the claims that it retires. -/
theorem purgesRetire : Obligations.PurgesRetire := by
  intro s hr
  have hexecArm : ∀ arm a, purgeArmOwner arm s = a →
      exec (.purgeArm arm) s = .next (a.state.replyCell 0x10 a.result a.clamped a.data) := by
    rintro arm a rfl
    exact takeCellFrame_next hr 0x10 (purgeArmOwner arm)
  have hexecClaim : ∀ slot gen a, purgeClaimOwner slot gen s = a →
      exec (.purgeClaim slot gen) s = .next (a.state.replyCell 0x11 a.result a.clamped a.data) := by
    rintro slot gen a rfl
    exact takeCellFrame_next hr 0x11 (purgeClaimOwner slot gen)
  refine ⟨fun arm p => ⟨fun hbad => ?_, fun harm => ⟨fun hrun => ?_, fun hrun hw => ?_⟩⟩, fun slot gen =>
    ⟨fun hnone => hexecClaim _ _ _ (purgeClaimOwner_stale hnone), fun k c hk hc => ⟨fun hrun => ?_, fun hrun hw => ?_⟩⟩⟩
  · exact hexecArm _ _ (by unfold purgeArmOwner; rw [armOf_eq_none hbad])
  · exact hexecArm _ _ ((purgeArmOwner_named harm).trans (if_pos hrun))
  · obtain ⟨hnodup, -⟩ := hw
    refine ⟨_, s.claimsOf p, hexecArm _ _ ((purgeArmOwner_named harm).trans (if_neg hrun)),
      pairwise_allSlots.filter _, mem_claimsOf s p, ?_⟩
    split
    · next hnone => exact retireAndRescreen_of_none hnone _ _
    · next hsome => exact retireAndRescreen_event s _ (some .purged) false hnodup (retirable_claimsOf s p) hsome
  · exact hexecClaim _ _ _ ((purgeClaimOwner_named hk hc).trans (if_pos hrun))
  · obtain ⟨hnodup, -⟩ := hw
    exact ⟨_, hexecClaim _ _ _ ((purgeClaimOwner_named hk hc).trans (if_neg hrun)),
      retireAndRescreen_event s [k] (some .purged) false hnodup (.single (by rw [hc]; rfl)) (List.cons_ne_nil k [])⟩

end Sys2Proof.Machine
end

section
/-! PROOFS. Entry and exit marking of an accepted REPORT (R75, R87, R88): O22. -/

namespace Sys2Proof.Machine

/-! ### What a report's hand-off to the guard controller leaves -/

/-- A change that leaves what a report's taking leaves before entry marking: it reaches guard controller records, report
records and STOP flags alone. A field left out of a proof is one that the change does not touch. -/
structure ArmsOnly (s t : State) : Prop where
  mode : t.mode = s.mode := by rfl
  timing : t.timing = s.timing := by rfl
  slots : t.slots = s.slots := by rfl
  waitList : t.waitList = s.waitList := by rfl
  links : t.links = s.links := by rfl
  keepOut : t.keepOut = s.keepOut := by rfl
  lines : t.lines = s.lines := by rfl
  noticeLost : t.events.sticky.noticeLost = s.events.sticky.noticeLost := by rfl

theorem ArmsOnly.refl (s : State) : ArmsOnly s s := {}

theorem ArmsOnly.trans {s t u : State} (h : ArmsOnly s t) (h' : ArmsOnly t u) : ArmsOnly s u where
  mode := h'.mode.trans h.mode
  timing := h'.timing.trans h.timing
  slots := h'.slots.trans h.slots
  waitList := h'.waitList.trans h.waitList
  links := h'.links.trans h.links
  keepOut := h'.keepOut.trans h.keepOut
  lines := h'.lines.trans h.lines
  noticeLost := h'.noticeLost.trans h.noticeLost

theorem armsOnly_returnFromLost (s : State) (p : Arm) : ArmsOnly s (s.returnFromLost p) := by
  unfold State.returnFromLost
  dsimp only
  split <;> exact {}

theorem armsOnly_resumeCheck (s : State) (p : Arm) : ArmsOnly s (s.resumeCheck p) := by
  unfold State.resumeCheck
  dsimp only
  split <;> exact {}

theorem armsOnly_takeVerdict (s : State) (p : Arm) (v : Verdict) : ArmsOnly s (s.takeVerdict p v) := by
  have htimer : ArmsOnly s (s.startReportTimer p) := {}
  unfold State.takeVerdict
  cases s.armState p with
  | detached | lost => exact .refl s
  | stopped => exact htimer.trans (armsOnly_resumeCheck _ p)
  | run =>
    dsimp only
    split
    · exact htimer
    · exact htimer.trans {}

/-- Steps 1 to 6 of a report's taking (R101): all of it but entry and exit marking. -/
def State.handedOff (s : State) (p : Arm) (request : ProfileName) (e : Envelope) : State :=
  ((s.returnFromLost p).recordReport p request e).takeVerdict p e.last.verdict

theorem armsOnly_handedOff (s : State) (p : Arm) (request : ProfileName) (e : Envelope) :
    ArmsOnly s (s.handedOff p request e) := by
  have hrecord : ArmsOnly (s.returnFromLost p) ((s.returnFromLost p).recordReport p request e) := {}
  unfold State.handedOff
  exact ((armsOnly_returnFromLost s p).trans hrecord).trans (armsOnly_takeVerdict _ p _)

theorem record_handedOff_other (s : State) (p : Arm) (request : ProfileName) (e : Envelope) :
    (s.handedOff p request e).record p.other = s.record p.other := by
  have hne : p.other ≠ p := (ne_other p).symm
  unfold State.handedOff
  rw [record_takeVerdict]
  simp only [hne, false_and, decide_false, Bool.not_false, Bool.and_true, State.recordReport, State.record_setRecord,
    if_false, record_returnFromLost_other]

theorem reportOwner_state (s : State) (p : Arm) (request : ProfileName) (xa ya za : Int) (speed : Nat) :
    (reportOwner p request xa ya za speed s).state =
      ((s.handedOff p request (s.envelope p request xa ya za speed)).markEntry p
        (s.envelope p request xa ya za speed).last.binPart).markExit p
        (s.envelope p request xa ya za speed).last.binPart := by
  unfold reportOwner State.handedOff
  dsimp only
  rw [envelope_returnFromLost]

/-! ### Entry and exit marking -/

theorem slot_markEntry (s : State) (p : Arm) (part : Option Box) (k : Fin 24) :
    (s.markEntry p part).slot k =
      { s.slot k with body :=
          match s.body k with
          | .granted c left =>
            if c.owner = p ∧ partIntersects part c.box = true then .occupied c else .granted c left
          | other => other } := by
  unfold State.markEntry
  exact State.slot_mapBodies s _ k

theorem body_markEntry (s : State) (p : Arm) (part : Option Box) (k : Fin 24) :
    (s.markEntry p part).body k =
      match s.body k with
      | .granted c left =>
        if c.owner = p ∧ partIntersects part c.box = true then .occupied c else .granted c left
      | other => other := by
  unfold State.markEntry
  exact State.body_mapBodies s _ k

/-- Entry marking enters no RELEASING claim, and makes none. -/
theorem body_markEntry_releasing_iff (s : State) (p : Arm) (part : Option Box) (k : Fin 24) (c : ClaimData) :
    (s.markEntry p part).body k = .releasing c ↔ s.body k = .releasing c := by
  rw [body_markEntry]
  cases s.body k with
  | granted d left => dsimp only; split <;> exact ⟨nofun, nofun⟩
  | _ => exact Iff.rfl

theorem mem_exits (s : State) (p : Arm) (part : Option Box) (k : Fin 24) :
    k ∈ s.exits p part ↔ ∃ c, s.body k = .releasing c ∧ c.owner = p ∧ partIntersects part c.box = false := by
  unfold State.exits
  simp only [List.mem_filter, mem_allSlots, true_and]
  cases s.body k <;> simp

/-- Exit marking retires the RELEASING claims of the arm that the bin part has left, in one event (R87, R88). -/
theorem markExit_event (s : State) (p : Arm) (part : Option Box) (hw : s.waitList.Nodup) :
    ∃ ks : List (Fin 24), ks.Pairwise (· < ·) ∧
      (∀ k, k ∈ ks ↔ ∃ c, s.body k = .releasing c ∧ c.owner = p ∧ partIntersects part c.box = false) ∧
      if ks = [] then s.markExit p part = s else TableEvent s (s.markExit p part) ks (some .retired) true id := by
  refine ⟨s.exits p part, pairwise_allSlots.filter _, mem_exits s p part, ?_⟩
  unfold State.markExit
  split
  · next hnone => exact retireAndRescreen_of_none hnone _ _
  · next hsome => exact retireAndRescreen_event _ _ (some .retired) true hw (exits_retirable _ p _) hsome

/-- Settles O22: what the verdict's hand-off leaves, entry marking slot by slot, and the one event of exit marking. -/
theorem reportMarksEntryAndExit : Obligations.ReportMarksEntryAndExit := by
  intro p arg xa ya za v s hr hm hw
  obtain ⟨hnodup, -⟩ := hw
  have hexec := exec_report hr hm p arg xa ya za v
  have hrecord := reportOwner_record s p (requestOf arg) xa.toInt ya.toInt za.toInt v.toNat
  rw [reportOwner_state] at hexec hrecord
  generalize s.envelope p (requestOf arg) xa.toInt ya.toInt za.toInt v.toNat = e at hexec hrecord
  have hframe := armsOnly_handedOff s p (requestOf arg) e
  have hother := record_handedOff_other s p (requestOf arg) e
  generalize s.handedOff p (requestOf arg) e = u at hexec hrecord hframe hother
  have hslot : ∀ k, u.slot k = s.slot k := fun k => congrArg (·[k]) hframe.slots
  have hlist : (u.markEntry p e.last.binPart).waitList = s.waitList :=
    (State.mapBodies_waitList u _).trans hframe.waitList
  obtain ⟨ks, hascending, hmem, hevent⟩ :=
    markExit_event (u.markEntry p e.last.binPart) p e.last.binPart (hlist ▸ hnodup)
  refine ⟨u.markEntry p e.last.binPart, _, e.last, e.d, hexec, by rw [hrecord], fun k => ?_, ?_, ?_, ?_, ?_, ?_, ?_, ?_,
    ks, hascending, fun k => ?_, hevent⟩
  · have hmarked := slot_markEntry u p e.last.binPart k
    rw [State.body_congr hframe.slots, hslot] at hmarked
    exact hmarked
  · exact hlist
  · exact (State.mapBodies_links u _).trans hframe.links
  · exact (State.mapBodies_keepOut u _).trans hframe.keepOut
  · exact (State.mapBodies_lines u _).trans hframe.lines
  · exact (State.mapBodies_timing u _).trans hframe.timing
  · exact (State.mapBodies_record u _ _).trans hother
  · exact (congrArg (fun x => x.sticky.noticeLost) (State.mapBodies_events u _)).trans hframe.noticeLost
  · simp only [hmem, body_markEntry_releasing_iff, State.body_congr hframe.slots]

end Sys2Proof.Machine
end

section
/-! PROOFS. What a high permit stands for (R143), as laws of the state, and the changes that leave these laws: what
becomes of the kept verdicts and of the claims that they stand on. -/

namespace Sys2Proof.Machine

/-! ### Claims that are entered -/

/-- The claim in a slot, where it is OCCUPIED or RELEASING (R76). -/
def SlotBody.entered : SlotBody → Option ClaimData
  | .free => none
  | .waiting _ _ _ => none
  | .granted _ _ => none
  | .occupied c => some c
  | .releasing c => some c

theorem entered_eq_some_iff (b : SlotBody) (c : ClaimData) :
    b.entered = some c ↔ b = .occupied c ∨ b = .releasing c := by
  cases b <;> simp [SlotBody.entered]

theorem live_of_entered {b : SlotBody} {c : ClaimData} (h : b.entered = some c) : b.live = some c := by
  rcases (entered_eq_some_iff b c).1 h with rfl | rfl <;> rfl

theorem enteredContains_iff (s : State) (p : Arm) (b : Box) :
    s.EnteredContains p b ↔ ∃ k c, (s.body k).entered = some c ∧ c.owner = p ∧ b.containedIn c.box = true := by
  simp only [State.EnteredContains, entered_eq_some_iff]

theorem State.EnteredContains.live {s : State} {p : Arm} {b : Box} (h : s.EnteredContains p b) :
    s.liveClaimContains p b = true := by
  obtain ⟨k, c, hc, ho, hin⟩ := (enteredContains_iff s p b).1 h
  exact (liveClaimContains_iff s p b).2 ⟨k, c, live_of_entered hc, ho, hin⟩

/-- A live claim stays live, and an entered one stays entered. -/
def BodyStays (b b' : SlotBody) : Prop :=
  (∀ c, b.live = some c → b'.live = some c) ∧ ∀ c, b.entered = some c → b'.entered = some c

theorem BodyStays.refl (b : SlotBody) : BodyStays b b := ⟨fun _ h => h, fun _ h => h⟩

theorem BodyStays.of_not_live {b : SlotBody} (h : b.live = none) (b' : SlotBody) : BodyStays b b' := by
  have hnone : ∀ c, b.live ≠ some c := fun c hc => by rw [h] at hc; cases hc
  exact ⟨fun c hc => absurd hc (hnone c), fun c hc => absurd (live_of_entered hc) (hnone c)⟩

theorem BodyRescreened.stays {n : Nat} {b b' : SlotBody} (h : BodyRescreened n b b') : BodyStays b b' := by
  obtain rfl | ⟨c, left, bl, rfl, -⟩ := h
  · exact .refl _
  · exact .of_not_live rfl _

theorem liveClaimContains_of_stays {s t : State} (h : ∀ k, BodyStays (s.body k) (t.body k)) {p : Arm} {b : Box}
    (hs : s.liveClaimContains p b = true) : t.liveClaimContains p b = true := by
  obtain ⟨k, c, hc, hin⟩ := (liveClaimContains_iff s p b).1 hs
  exact (liveClaimContains_iff t p b).2 ⟨k, c, (h k).1 c hc, hin⟩

theorem enteredContains_of_stays {s t : State} (h : ∀ k, BodyStays (s.body k) (t.body k)) {p : Arm} {b : Box}
    (hs : s.EnteredContains p b) : t.EnteredContains p b := by
  obtain ⟨k, c, hc, hin⟩ := (enteredContains_iff s p b).1 hs
  exact (enteredContains_iff t p b).2 ⟨k, c, (h k).2 c hc, hin⟩

/-! ### The laws -/

/-- The kept place of arm p is CONTAINED, and b is its recorded bin part. -/
def State.KeptIn (s : State) (p : Arm) (b : Box) : Prop :=
  ∃ l, (s.record p).last = some l ∧ l.binPart = some b ∧ l.verdict.place = .contained

/-- No arm runs, and no report record is valid. -/
def State.Idle (s : State) : Prop := ∀ p, s.armState p ≠ .run ∧ (s.record p).last = none

/-- The kept INTRUSION is current (R118). -/
def State.IntrusionsKept (s : State) : Prop :=
  ∀ p l, (s.record p).last = some l → l.verdict.intrusion = s.partIntrudes l.binPart

/-- The kept places are current (R118), and in CONFIG none is kept (R104, R121). -/
structure State.PlaceLaws (s : State) : Prop where
  idle : s.mode = .config → s.Idle
  outside : ∀ p l, (s.record p).last = some l → (l.verdict.place = .outside ↔ l.binPart = none)
  live : ∀ p b, s.KeptIn p b → s.liveClaimContains p b = true

/-- The bin part of an arm in RUN and a kept CONTAINED stand on a claim that is entered (R76, R143). -/
structure State.EnteredLaws (s : State) : Prop where
  formed : ∀ p b, s.binPart p = some b → b.wellFormed = true
  held : s.ContainingClaimHeld
  places : ∀ p b, s.KeptIn p b → s.EnteredContains p b

/-- The last report of arm p was not over its cap, and its bin part touches no active group but those that P names: the
groups whose activation is still to be taken (R130, R143). -/
def State.ClearBut (P : Group → Prop) (s : State) (p : Arm) : Prop :=
  ∃ l, (s.record p).last = some l ∧ l.verdict.overspeed = false ∧
    ∀ b g, l.binPart = some b → s.groupActive g = true → s.keepOut.touchesGroup b g = true → P g

/-- Every arm in RUN is clear but for the groups that P names. -/
def State.RunClearBut (P : Group → Prop) (s : State) : Prop := ∀ p, s.armState p = .run → s.ClearBut P p

theorem State.Idle.placeLaws {s : State} (h : s.Idle) : s.PlaceLaws where
  idle _ := h
  outside p l hl := by rw [(h p).2] at hl; cases hl
  live p b := fun ⟨l, hl, _⟩ => by rw [(h p).2] at hl; cases hl

theorem State.Idle.binPart {s : State} (h : s.Idle) (p : Arm) : s.binPart p = none := by
  rw [binPart_eq_bind, (h p).2]
  rfl

theorem State.Idle.enteredLaws {s : State} (h : s.Idle) : s.EnteredLaws where
  formed p b hb := by rw [h.binPart] at hb; cases hb
  held p b hrun := absurd hrun (h p).1
  places p b := fun ⟨l, hl, _⟩ => by rw [(h p).2] at hl; cases hl

theorem State.Idle.intrusionsKept {s : State} (h : s.Idle) : s.IntrusionsKept := fun p l hl => by
  rw [(h p).2] at hl
  cases hl

theorem State.Idle.runClearBut {s : State} (h : s.Idle) (P : Group → Prop) : s.RunClearBut P := fun p hrun =>
  absurd hrun (h p).1

/-- A part intrudes where it touches an active group (R114). -/
theorem partIntrudes_eq_false_iff (s : State) (part : Option Box) :
    s.partIntrudes part = false ↔
      ∀ b g, part = some b → s.groupActive g = true → s.keepOut.touchesGroup b g = true → False := by
  cases part with
  | none => exact ⟨fun _ _ _ => nofun, fun _ => rfl⟩
  | some b =>
    have hnone : s.partIntrudes (some b) = false ↔ s.activeGroupsTouched b = [] := by
      unfold State.partIntrudes
      simp
    rw [hnone, activeGroupsTouched_eq_nil_iff]
    exact ⟨fun h c g hc => Option.some.inj hc ▸ h g, fun h g => h b g rfl⟩

/-- Parts intrude alike where boxes touch the same groups, and the same groups are active. -/
theorem partIntrudes_eq {s t : State} (hk : ∀ b g, t.keepOut.touchesGroup b g = s.keepOut.touchesGroup b g)
    (hg : ∀ g, t.groupActive g = s.groupActive g) (part : Option Box) : t.partIntrudes part = s.partIntrudes part := by
  rw [Bool.eq_iff_iff, ← not_iff_not, Bool.not_eq_true, Bool.not_eq_true, partIntrudes_eq_false_iff,
    partIntrudes_eq_false_iff]
  simp only [hk, hg]

theorem intrusionsKept_of {s t : State} (hk : ∀ b g, t.keepOut.touchesGroup b g = s.keepOut.touchesGroup b g)
    (hg : ∀ g, t.groupActive g = s.groupActive g) (hlast : ∀ p, (t.record p).last = (s.record p).last)
    (hs : s.IntrusionsKept) : t.IntrusionsKept := by
  intro p l hl
  rw [partIntrudes_eq hk hg]
  exact hs p l (hlast p ▸ hl)

/-! ### Changes that leave the laws -/

/-- What becomes of a report record's last report between its arm's reports: the kept INTRUSION may be brought up to
date, and a kept CONTAINED may become ESCAPED (R118). -/
def LastReport.Rejudged (l l' : LastReport) : Prop :=
  l'.binPart = l.binPart ∧ l'.verdict.overspeed = l.verdict.overspeed ∧
    (l'.verdict.place = l.verdict.place ∨ l.verdict.place = .contained ∧ l'.verdict.place = .escaped)

theorem LastReport.Rejudged.refl (l : LastReport) : l.Rejudged l := ⟨rfl, rfl, .inl rfl⟩

theorem LastReport.Rejudged.trans {l l' l'' : LastReport} (h : l.Rejudged l') (h' : l'.Rejudged l'') :
    l.Rejudged l'' := by
  obtain ⟨hpart, hover, hplace⟩ := h
  obtain ⟨hpart', hover', hplace'⟩ := h'
  refine ⟨hpart'.trans hpart, hover'.trans hover, ?_⟩
  rcases hplace' with he' | ⟨hc', he'⟩
  · rw [he']; exact hplace
  · rcases hplace with he | ⟨-, he⟩
    · exact .inr ⟨he ▸ hc', he'⟩
    · rw [he] at hc'; cases hc'

theorem rejudged_refl (x : Option LastReport) : Option.Rel LastReport.Rejudged x x := by
  cases x with
  | none => exact .none
  | some l => exact .some (.refl l)

theorem rejudged_map {x : Option LastReport} {f : LastReport → LastReport} (h : ∀ l, x = some l → l.Rejudged (f l)) :
    Option.Rel LastReport.Rejudged x (x.map f) := by
  cases x with
  | none => exact .none
  | some l => exact .some (h l rfl)

/-- A change in which no arm comes to run, no group changes its activity, and every place that is kept goes on standing
on a live claim. `purged` tells of a purge, after which a kept CONTAINED may stand on a GRANTED claim (log entry 9). A
field left out of a proof is one that the change does not touch. -/
structure PermitFrame (purged : Prop) (s t : State) : Prop where
  mode : t.mode = s.mode := by rfl
  keepOut : t.keepOut = s.keepOut := by rfl
  active : ∀ g, t.groupActive g = s.groupActive g := by exact fun _ => rfl
  run : ∀ p, t.armState p = .run → s.armState p = .run := by exact fun _ h => h
  last : ∀ p, Option.Rel LastReport.Rejudged (s.record p).last (t.record p).last := by exact fun _ => rejudged_refl _
  intrusion : s.IntrusionsKept → t.IntrusionsKept := by exact id
  live : ∀ p b, t.KeptIn p b → s.liveClaimContains p b = true → t.liveClaimContains p b = true :=
    by exact fun _ _ _ => id
  held : ∀ p b, b.wellFormed = true → s.binPart p = some b → t.armState p = .run → s.EnteredContains p b →
    t.EnteredContains p b := by exact fun _ _ _ _ _ => id
  entered : ¬ purged → ∀ p b, b.wellFormed = true → t.KeptIn p b → s.EnteredContains p b → t.EnteredContains p b :=
    by exact fun _ _ _ _ _ => id

section
variable {purged : Prop} {s t u : State}

theorem PermitFrame.refl (s : State) : PermitFrame purged s s := {}

theorem PermitFrame.last_of (h : PermitFrame purged s t) {p : Arm} {l' : LastReport}
    (hl' : (t.record p).last = some l') : ∃ l, (s.record p).last = some l ∧ l.Rejudged l' := by
  have hrel := h.last p
  rw [hl'] at hrel
  generalize (s.record p).last = x at hrel ⊢
  cases hrel with
  | some hr => exact ⟨_, rfl, hr⟩

theorem PermitFrame.last_to (h : PermitFrame purged s t) {p : Arm} {l : LastReport}
    (hl : (s.record p).last = some l) : ∃ l', (t.record p).last = some l' ∧ l.Rejudged l' := by
  have hrel := h.last p
  rw [hl] at hrel
  generalize (t.record p).last = x at hrel ⊢
  cases hrel with
  | some hr => exact ⟨_, rfl, hr⟩

theorem PermitFrame.last_none (h : PermitFrame purged s t) {p : Arm} (hl : (s.record p).last = none) :
    (t.record p).last = none := by
  have hrel := h.last p
  rw [hl] at hrel
  generalize (t.record p).last = x at hrel ⊢
  cases hrel
  rfl

theorem PermitFrame.binPart (h : PermitFrame purged s t) (p : Arm) : t.binPart p = s.binPart p := by
  rw [binPart_eq_bind, binPart_eq_bind]
  cases hl : (s.record p).last with
  | none => rw [h.last_none hl]
  | some l =>
    obtain ⟨l', hl', hpart, -⟩ := h.last_to hl
    rw [hl']
    exact hpart

theorem State.KeptIn.binPart {p : Arm} {b : Box} (h : s.KeptIn p b) : s.binPart p = some b := by
  obtain ⟨l, hl, hb, -⟩ := h
  rw [binPart_eq_bind, hl]
  exact hb

theorem PermitFrame.keptIn (h : PermitFrame purged s t) {p : Arm} {b : Box} (ht : t.KeptIn p b) : s.KeptIn p b := by
  obtain ⟨l', hl', hb, hp⟩ := ht
  obtain ⟨l, hl, hpart, -, hplace⟩ := h.last_of hl'
  refine ⟨l, hl, hpart ▸ hb, ?_⟩
  rcases hplace with he | ⟨hc, -⟩
  · exact he ▸ hp
  · exact hc

theorem PermitFrame.trans (h : PermitFrame purged s t) (h' : PermitFrame purged t u) : PermitFrame purged s u where
  mode := h'.mode.trans h.mode
  keepOut := h'.keepOut.trans h.keepOut
  active g := (h'.active g).trans (h.active g)
  run p hrun := h.run p (h'.run p hrun)
  last p := by
    cases hl : (s.record p).last with
    | none =>
      rw [h'.last_none (h.last_none hl)]
      exact .none
    | some l =>
      obtain ⟨l', hl', hr⟩ := h.last_to hl
      obtain ⟨l'', hl'', hr'⟩ := h'.last_to hl'
      rw [hl'']
      exact .some (hr.trans hr')
  intrusion hs := h'.intrusion (h.intrusion hs)
  live p b hu hs := h'.live p b hu (h.live p b (h'.keptIn hu) hs)
  held p b hw hb hrun hs := h'.held p b hw ((h.binPart p).trans hb) hrun (h.held p b hw hb (h'.run p hrun) hs)
  entered hn p b hw hu hs := h'.entered hn p b hw hu (h.entered hn p b hw (h'.keptIn hu) hs)

/-! ### The laws outlast such a change -/

theorem PermitFrame.idle (h : PermitFrame purged s t) (hs : s.Idle) : t.Idle := fun p =>
  ⟨fun hrun => (hs p).1 (h.run p hrun), h.last_none (hs p).2⟩

theorem PermitFrame.placeLaws (h : PermitFrame purged s t) (hs : s.PlaceLaws) : t.PlaceLaws where
  idle hm := h.idle (hs.idle (h.mode ▸ hm))
  outside p l' hl' := by
    obtain ⟨l, hl, hpart, -, hplace⟩ := h.last_of hl'
    have hout := hs.outside p l hl
    rw [hpart]
    rcases hplace with he | ⟨hc, he⟩
    · rw [he]; exact hout
    · rw [he, ← hout, hc]; exact ⟨nofun, nofun⟩
  live p b ht := h.live p b ht (hs.live p b (h.keptIn ht))

theorem PermitFrame.containingClaimHeld (h : PermitFrame purged s t) (hs : s.EnteredLaws) : t.ContainingClaimHeld := by
  intro p b hrun hb
  rw [h.binPart] at hb
  exact h.held p b (hs.formed p b hb) hb hrun (hs.held p b (h.run p hrun) hb)

theorem PermitFrame.enteredLaws (h : PermitFrame False s t) (hs : s.EnteredLaws) : t.EnteredLaws where
  formed p b hb := hs.formed p b (h.binPart p ▸ hb)
  held := h.containingClaimHeld hs
  places p b ht :=
    have hk := h.keptIn ht
    h.entered id p b (hs.formed p b hk.binPart) ht (hs.places p b hk)

theorem PermitFrame.clearBut (h : PermitFrame purged s t) {P : Group → Prop} {p : Arm} (hs : s.ClearBut P p) :
    t.ClearBut P p := by
  obtain ⟨l, hl, hover, hclear⟩ := hs
  obtain ⟨l', hl', hpart, hover', -⟩ := h.last_to hl
  refine ⟨l', hl', hover'.trans hover, fun b g hb hg ht => ?_⟩
  rw [hpart] at hb
  rw [h.active] at hg
  rw [h.keepOut] at ht
  exact hclear b g hb hg ht

theorem PermitFrame.runClearBut (h : PermitFrame purged s t) {P : Group → Prop} (hs : s.RunClearBut P) :
    t.RunClearBut P := fun p hrun => h.clearBut (hs p (h.run p hrun))

end

end Sys2Proof.Machine
end

section
/-! PROOFS. The shared operations of the Claim Table, the guard controllers and the time base as changes that leave what
a high permit stands for. -/

namespace Sys2Proof.Machine

/-! ### Updates of one record -/

section
variable {purged : Prop}

theorem permits_setLink (s : State) (p : Arm) (l : ArmLink) : PermitFrame purged s (s.setLink p l) := {}

theorem permits_cell (s : State) (c : CellLink) : PermitFrame purged s { s with cell := c } := {}

theorem permits_events (s : State) (e : EventUnit) : PermitFrame purged s { s with events := e } := {}

theorem permits_updSticky (s : State) (f : StickyFlags → StickyFlags) : PermitFrame purged s (s.updSticky f) := {}

theorem permits_setGuard {s : State} {p : Arm} {g : Guard} (h : g.state = .run → s.armState p = .run) :
    PermitFrame purged s (s.setGuard p g) := by
  have hrun : ∀ q, (s.setGuard p g).armState q = .run → s.armState q = .run := by
    intro q hq
    rw [State.armState_setGuard] at hq
    split at hq
    · next he => subst he; exact h hq
    · exact hq
  exact { run := hrun }

/-- A report record that keeps its last report. -/
theorem permits_setRecord {s : State} {p : Arm} {r : ReportRecord} (h : r.last = (s.record p).last) :
    PermitFrame purged s (s.setRecord p r) := by
  have hlast : ∀ q, ((s.setRecord p r).record q).last = (s.record q).last := by
    intro q
    rw [State.record_setRecord]
    split
    · next he => subst he; exact h
    · rfl
  exact
    { last := fun q => by rw [hlast]; exact rejudged_refl _
      intrusion := intrusionsKept_of (fun _ _ => rfl) (fun _ => rfl) hlast }

theorem permits_clearFresh (s : State) (p : Arm) : PermitFrame purged s (s.clearFresh p) := permits_setRecord rfl

/-- A line whose function and filtered level stay is no change of a source. -/
theorem permits_setLine {s : State} {n : Fin 8} {l : Line} (hfunc : l.func = (s.line n).func)
    (hfiltered : l.filtered = (s.line n).filtered) : PermitFrame purged s (s.setLine n l) := by
  have hactive := (sameTable_setLine hfunc hfiltered).active
  exact
    { active := hactive
      intrusion := intrusionsKept_of (fun _ _ => rfl) hactive fun _ => rfl }

/-! ### The Claim Table -/

theorem RecordKept.rejudged {r r' : ReportRecord} (h : RecordKept r r') :
    Option.Rel LastReport.Rejudged r.last r'.last := by
  obtain rfl | ⟨l, hl, hc, rfl⟩ := h
  · exact rejudged_refl _
  · rw [hl]
    exact .some ⟨rfl, rfl, .inr ⟨hc, rfl⟩⟩

theorem RecordKept.last_intrusion {r r' : ReportRecord} (h : RecordKept r r') {l' : LastReport}
    (hl' : r'.last = some l') :
    ∃ l, r.last = some l ∧ l'.verdict.intrusion = l.verdict.intrusion ∧ l'.binPart = l.binPart := by
  obtain rfl | ⟨l, hl, -, rfl⟩ := h
  · exact ⟨l', hl', rfl, rfl⟩
  · cases hl'
    exact ⟨l, hl, rfl, rfl⟩

section
variable {s t : State} (h : TableFrame s t)
include h

theorem TableFrame.run {p : Arm} (hrun : t.armState p = .run) : s.armState p = .run := by
  unfold State.armState at hrun
  rwa [h.guard] at hrun

/-- A change of the table, by what it does to the claims that places stand on. -/
theorem TableFrame.permits
    (hlive : ∀ p b, t.KeptIn p b → s.liveClaimContains p b = true → t.liveClaimContains p b = true)
    (hheld : ∀ p b, b.wellFormed = true → s.binPart p = some b → s.armState p = .run → s.EnteredContains p b →
      t.EnteredContains p b)
    (hentered : ¬ purged → ∀ p b, b.wellFormed = true → t.KeptIn p b → s.EnteredContains p b → t.EnteredContains p b) :
    PermitFrame purged s t where
  mode := h.mode
  keepOut := h.keepOut
  active := State.groupActive_congr h.keepOut h.lines
  run _ := h.run
  last p := (h.records p).rejudged
  intrusion hs p l' hl' := by
    obtain ⟨l, hl, hi, hpart⟩ := (h.records p).last_intrusion hl'
    rw [hi, hpart, State.partIntrudes_congr h.keepOut h.lines]
    exact hs p l hl
  live := hlive
  held p b hw hb hrun := hheld p b hw hb (h.run hrun)
  entered := hentered

/-- A change of the table in which live claims stay live and entered ones entered. -/
theorem TableFrame.permits_of_stays (hstays : ∀ k, BodyStays (s.body k) (t.body k)) : PermitFrame purged s t :=
  h.permits (fun _ _ _ => liveClaimContains_of_stays hstays) (fun _ _ _ _ _ => enteredContains_of_stays hstays)
    fun _ _ _ _ _ => enteredContains_of_stays hstays

end

theorem permits_setBody {s : State} {k : Fin 24} {b : SlotBody} (h : BodyStays (s.body k) b) :
    PermitFrame purged s (s.setBody k b) := by
  refine (setBody_frame s k b).permits_of_stays fun j => ?_
  rw [State.body_setBody]
  split
  · next hj => subst hj; exact h
  · exact .refl _

theorem permits_mapBodies {s : State} {f : Fin 24 → SlotBody → SlotBody}
    (h : ∀ k, BodyStays (s.body k) (f k (s.body k))) : PermitFrame purged s (s.mapBodies f) := by
  have hframe : TableFrame s (s.mapBodies f) := TableFrame.of_slots s _ s.waitList
  refine hframe.permits_of_stays fun k => ?_
  rw [State.body_mapBodies]
  exact h k

theorem permits_waitList (s : State) (w : List (Fin 24)) : PermitFrame purged s { s with waitList := w } := {}

theorem permits_rescreen (s : State) : PermitFrame purged s s.rescreen :=
  (rescreen_frame s).permits_of_stays fun k => (rescreenFrom_rescreened s.waitList [] s k).stays

theorem permits_joinBlockers (s : State) (p : Arm) (k : Fin 24) (box : Box) (behind : Fin 24 → Bool) :
    PermitFrame purged s (s.joinBlockers p k box behind) := by
  refine permits_mapBodies fun j => ?_
  cases s.body j with
  | waiting c left bl => exact .of_not_live rfl _
  | _ => exact .refl _

theorem permits_joinGroup (s : State) (g : Group) : PermitFrame purged s (s.joinGroup g) := by
  refine permits_mapBodies fun j => ?_
  cases s.body j with
  | waiting c left bl => exact .of_not_live rfl _
  | _ => exact .refl _

/-- The claims of a list may be retired: one that is entered does not contain its owner's bin part, or its owner does
not run and loses, unless a purge spares them, all its claims with it. -/
def State.Retires (purged : Prop) (s : State) (ks : List (Fin 24)) : Prop :=
  ∀ k ∈ ks, ∀ c, (s.body k).entered = some c → ∀ b, b.wellFormed = true → s.binPart c.owner = some b →
    b.containedIn c.box = true →
      s.armState c.owner ≠ .run ∧ (¬ purged → ∀ j, s.holdsClaim c.owner j = true → j ∈ ks)

theorem retires_of_not_entered {s : State} {ks : List (Fin 24)} (h : ∀ k ∈ ks, (s.body k).entered = none) :
    s.Retires purged ks := fun k hk c hc => by rw [h k hk] at hc; cases hc

/-- A place that is kept across retirements was not lost by them (R118). -/
theorem not_placeLost_of_keptIn {s : State} {ks : List (Fin 24)} {n : Option NoticeKind} (hks : s.Retirable ks)
    {p : Arm} {b : Box} (h : (s.retireAll ks n false).KeptIn p b) : s.placeLost p ks = false ∧ s.KeptIn p b := by
  obtain ⟨l, hl, hb, hp⟩ := h
  rw [record_retireAll ks n false p s hks] at hl
  split at hl
  · obtain ⟨l', -, rfl⟩ := Option.map_eq_some_iff.1 hl
    cases hp
  · next hlost => exact ⟨by simpa using hlost, l, hl, hb, hp⟩

theorem permits_retireAll {s : State} {ks : List (Fin 24)} (n : Option NoticeKind) (hks : s.Retirable ks)
    (h : s.Retires purged ks) : PermitFrame purged s (s.retireAll ks n false) := by
  have hbody := body_retireAll ks n false s hks
  have hkept : ∀ {p b k c}, k ∉ ks → (s.body k).entered = some c → c.owner = p → b.containedIn c.box = true →
      (s.retireAll ks n false).EnteredContains p b := by
    intro p b k c hk hc ho hin
    exact (enteredContains_iff _ p b).2 ⟨k, c, by rw [hbody, if_neg hk]; exact hc, ho, hin⟩
  refine (retireAll_frame ks n false s).permits (fun p b ht hs => ?_) (fun p b hw hb hrun hs => ?_)
    fun hn p b hw ht hs => ?_
  · obtain ⟨hlost, l, hl, hb, hp⟩ := not_placeLost_of_keptIn hks ht
    by_contra hgone
    obtain ⟨k, c, hc, ho, hin⟩ := (liveClaimContains_iff s p b).1 hs
    have hnone : ∀ j d, j ∉ ks → (s.body j).live = some d → d.owner = p → b.containedIn d.box = false := by
      intro j d hj hd hod
      refine Bool.eq_false_iff.2 fun hind => hgone ?_
      exact (liveClaimContains_iff _ p b).2 ⟨j, d, by rw [hbody, if_neg hj]; exact hd, hod, hind⟩
    have hk : k ∈ ks := by
      by_contra hk
      rw [hnone k c hk hc ho] at hin
      cases hin
    have hplace : s.placeLost p ks = true :=
      (placeLost_iff s p ks).2 ⟨⟨k, hk, (holdsLive_iff s p k).2 ⟨c, hc, ho⟩⟩, l, b, hl, hp, hb, hnone⟩
    rw [hlost] at hplace
    cases hplace
  · obtain ⟨k, c, hc, ho, hin⟩ := (enteredContains_iff s p b).1 hs
    refine hkept (fun hk => ?_) hc ho hin
    subst ho
    obtain ⟨hstill, -⟩ := h k hk c hc b hw hb hin
    exact hstill hrun
  · obtain ⟨k, c, hc, ho, hin⟩ := (enteredContains_iff s p b).1 hs
    obtain ⟨hlost, hkeptIn⟩ := not_placeLost_of_keptIn hks ht
    refine hkept (fun hk => ?_) hc ho hin
    subst ho
    obtain ⟨-, hall⟩ := h k hk c hc b hw hkeptIn.binPart hin
    obtain ⟨l, hl, hb, hp⟩ := hkeptIn
    have hplace : s.placeLost c.owner ks = true := by
      refine (placeLost_iff s c.owner ks).2
        ⟨⟨k, hk, (holdsLive_iff s _ k).2 ⟨c, live_of_entered hc, rfl⟩⟩, l, b, hl, hp, hb, fun j d hj hd hod => ?_⟩
      exact absurd (hall hn j ((holdsClaim_iff s c.owner j).2 ⟨d, live_isSome_claim hd, hod⟩)) hj
    rw [hlost] at hplace
    cases hplace

theorem permits_retireAndRescreen {s : State} {ks : List (Fin 24)} (n : Option NoticeKind) (hks : s.Retirable ks)
    (h : s.Retires purged ks) : PermitFrame purged s (s.retireAndRescreen ks n false) := by
  unfold State.retireAndRescreen
  split
  · exact .refl s
  · exact (permits_retireAll n hks h).trans (permits_rescreen _)

/-- A GRANTED or a WAITING claim ends: no place stands on it alone (R76). -/
theorem permits_retireOne {s : State} {k : Fin 24} {c : ClaimData} (n : Option NoticeKind)
    (hc : (s.body k).claim = some c) (h : (s.body k).entered = none) :
    PermitFrame purged s (s.retireAndRescreen [k] n false) :=
  permits_retireAndRescreen n (.single (by rw [hc]; rfl)) (retires_of_not_entered fun j hj => by
    rw [List.mem_singleton.1 hj]; exact h)

theorem entered_of_waiting {b : SlotBody} (h : b.waitingClaim.isSome = true) : b.entered = none := by
  cases b with
  | waiting => rfl
  | _ => cases h

theorem permits_cancelWaits (s : State) (p : Arm) : PermitFrame purged s (s.cancelWaits p) := by
  refine permits_retireAndRescreen _ (retirable_waitsOf s p) (retires_of_not_entered fun k hk => ?_)
  obtain ⟨c, hc, -⟩ := (ownedBy_iff _ _).1 ((mem_waitsOf s p k).1 hk)
  exact entered_of_waiting (by rw [hc]; rfl)

/-- The table's part in an activation ends GRANTED claims alone (R158). -/
theorem permits_tableActivate (s : State) (g : Group) : PermitFrame purged s (s.tableActivate g) := by
  have hretired : PermitFrame purged s (s.retireAll (s.revoked g) (some .revoked) false) := by
    refine permits_retireAll _ (retirable_revoked s g) (retires_of_not_entered fun k hk => ?_)
    obtain ⟨c, left, hb, -⟩ := (mem_revoked s g k).1 hk
    rw [hb]
    rfl
  by_cases hks : s.revoked g = []
  · rw [tableActivate_of_none hks]
    exact permits_joinGroup s g
  · rw [tableActivate_of_some hks]
    exact ((hretired.trans (permits_joinGroup _ g)).trans (permits_updSticky _ _)).trans (permits_rescreen _)

/-! ### The guard controllers -/

theorem permits_enterStopped (s : State) (p : Arm) (causes : List StopCause) :
    PermitFrame purged s (s.enterStopped p causes) := by
  unfold State.enterStopped
  exact ((permits_setGuard (by intro h; cases h)).trans (permits_clearFresh _ p)).trans (permits_updSticky _ _)

theorem permits_stopArm (s : State) (p : Arm) (cause : StopCause) : PermitFrame purged s (s.stopArm p cause) := by
  unfold State.stopArm
  split
  · exact permits_enterStopped s p _
  · exact permits_setGuard id
  · exact .refl s
  · exact .refl s

theorem permits_enterLost (s : State) (p : Arm) : PermitFrame purged s (s.enterLost p) := by
  unfold State.enterLost
  exact (((permits_setGuard (by intro h; cases h)).trans (permits_clearFresh _ p)).trans (permits_updSticky _ _)).trans
    (permits_cancelWaits _ p)

theorem permits_guardActivate (s : State) (g : Group) (p : Arm) : PermitFrame purged s (s.guardActivate g p) := by
  obtain ⟨-, he⟩ | ⟨-, he⟩ := guardActivate_cases s g p
  · rw [he]; exact permits_stopArm s p _
  · rw [he]; exact .refl s

theorem intrusionsKept_keepIntrusions (s : State) : s.keepIntrusions.IntrusionsKept := by
  have hframe := frame_keepIntrusions s
  have hkeepOut := congrArg State.keepOut hframe
  have hlines := congrArg State.lines hframe
  intro p l' hl'
  rw [record_keepIntrusions] at hl'
  obtain ⟨l, -, rfl⟩ := Option.map_eq_some_iff.1 hl'
  exact (State.partIntrudes_congr hkeepOut hlines _).symm

theorem permits_keepIntrusions (s : State) : PermitFrame purged s s.keepIntrusions := by
  have hframe := frame_keepIntrusions s
  have hmode := congrArg State.mode hframe
  have hkeepOut := congrArg State.keepOut hframe
  have hlines := congrArg State.lines hframe
  have hguards := congrArg State.guards hframe
  have hsame := congrArg State.slots hframe
  have hslots : s.keepIntrusions.slots = s.slots := hsame
  have hstays : ∀ k, BodyStays (s.body k) (s.keepIntrusions.body k) := fun k => by
    rw [State.body_congr hslots]; exact .refl _
  exact
    { mode := hmode
      keepOut := hkeepOut
      active := State.groupActive_congr hkeepOut hlines
      run := fun p hrun => (congrArg (fun x => (x.get p).state) hguards).symm.trans hrun
      last := fun p => by
        rw [record_keepIntrusions]
        exact rejudged_map fun l _ => ⟨rfl, rfl, .inl rfl⟩
      intrusion := fun _ => intrusionsKept_keepIntrusions s
      live := fun _ _ _ => liveClaimContains_of_stays hstays
      held := fun _ _ _ _ _ => enteredContains_of_stays hstays
      entered := fun _ _ _ _ _ => enteredContains_of_stays hstays }

/-! ### The time base -/

theorem stays_tick (b : SlotBody) : BodyStays b b.tick := by
  cases b <;> exact ⟨fun _ h => h, fun _ h => h⟩

/-- The timers beside the slots' and the accumulators move no state of an arm. -/
theorem permits_timers {s : State} {gs : PerArm Guard} {ls : Vector Line 8} {e : EventUnit}
    (hguard : ∀ p, gs.get p = { s.guard p with reportTimer := (s.guard p).reportTimer.map (· - 1) })
    (hline : ∀ n : Fin 8, ls[n] = { s.line n with filterTimer := (s.line n).filterTimer.map (· - 1) }) :
    PermitFrame purged s { s with guards := gs, lines := ls, events := e } := by
  have hactive := (move_timers (e := e) hguard hline).groupActive
  have hrun : ∀ p, (gs.get p).state = .run → s.armState p = .run := fun p h => by
    rw [hguard] at h; exact h
  exact
    { active := hactive
      run := hrun
      intrusion := intrusionsKept_of (fun _ _ => rfl) hactive fun _ => rfl }

theorem permits_tick (s : State) : PermitFrame purged s s.tick := by
  have hbodies : PermitFrame purged s (s.mapBodies fun _ b => b.tick) := permits_mapBodies fun _ => stays_tick _
  unfold State.tick
  refine hbodies.trans (permits_timers (fun p => ?_) fun n => ?_)
  · rw [State.mapBodies_guard, ← tickTimer_eq]
    cases p <;> rfl
  · rw [Fin.getElem_fin, Vector.getElem_ofFn, State.mapBodies_line, ← tickTimer_eq]

end

end Sys2Proof.Machine
end

section
/-! PROOFS. An arm that comes to run by ATTACH or by the resume check, and chains of such changes (R123, R139, R143). -/

namespace Sys2Proof.Machine

/-- What ATTACH and the resume check ask of the kept verdict (R123, R139). -/
def State.MayRun (s : State) (p : Arm) : Prop :=
  ∃ l, (s.record p).last = some l ∧ l.verdict.overspeed = false ∧
    (l.verdict.place = .outside ∨ l.verdict.place = .contained ∧ l.verdict.intrusion = false)

theorem mayRun_of_attachFits {s : State} {p : Arm} (h : s.attachFits p = true) : s.MayRun p := by
  unfold State.attachFits at h
  unfold State.MayRun
  cases hl : (s.record p).last with
  | none => simp [hl] at h
  | some l =>
    simp only [hl, Bool.and_eq_true, beq_iff_eq, Bool.not_eq_true'] at h
    obtain ⟨⟨-, hout, hover⟩, -⟩ := h
    exact ⟨l, rfl, hover, .inl hout⟩

theorem mayRun_of_mayResume {s : State} {p : Arm} (h : MayResume s p) : s.MayRun p := by
  obtain ⟨-, -, l, hl, hplace, hi, hover⟩ := h
  exact ⟨l, hl, hover, hplace.imp_right fun hc => ⟨hc, hi⟩⟩

/-- One change: nothing of what the laws speak of, or an arm that comes to run as its kept verdict allows. -/
inductive PermitMove : State → State → Prop where
  | kept {s t : State} : PermitFrame False s t → PermitMove s t
  | runs {s : State} {p : Arm} (g : Guard) : s.MayRun p → PermitMove s (s.setGuard p g)

/-- Such changes, one after another. -/
def PermitMoves (s t : State) : Prop := Relation.ReflTransGen PermitMove s t

theorem PermitMoves.refl (s : State) : PermitMoves s s := Relation.ReflTransGen.refl

theorem PermitMoves.trans {s t u : State} (h : PermitMoves s t) (h' : PermitMoves t u) : PermitMoves s u :=
  Relation.ReflTransGen.trans h h'

theorem PermitFrame.moves {s t : State} (h : PermitFrame False s t) : PermitMoves s t := .single (.kept h)

/-- A property that each change keeps is kept by the chain. -/
theorem PermitMoves.keeps {P : State → Prop} (hP : ∀ {s t}, PermitMove s t → P s → P t) {s t : State}
    (h : PermitMoves s t) (hs : P s) : P t := by
  induction h with
  | refl => exact hs
  | tail _ h ih => exact hP h ih

theorem permitMoves_resumeCheck (s : State) (p : Arm) : PermitMoves s (s.resumeCheck p) := by
  unfold State.resumeCheck
  dsimp only
  split
  · next h =>
    obtain ⟨-, -, -, hfits⟩ := h
    exact .single (.runs _ (mayRun_of_mayResume ((resumeFits_iff s p).1 hfits)))
  · exact .refl s

/-! ### The laws -/

section
variable {s t : State}

theorem PermitMove.placeLaws (h : PermitMove s t) (hs : s.PlaceLaws) : t.PlaceLaws := by
  cases h with
  | kept h => exact h.placeLaws hs
  | @runs p g h =>
    refine ⟨fun hm => ?_, hs.outside, hs.live⟩
    obtain ⟨l, hl, -⟩ := h
    rw [(hs.idle hm p).2] at hl
    cases hl

theorem PermitMove.intrusionsKept (h : PermitMove s t) (hs : s.IntrusionsKept) : t.IntrusionsKept := by
  cases h with
  | kept h => exact h.intrusion hs
  | runs _ _ => exact hs

/-- An arm whose kept verdict allows it to run is clear: an empty bin part touches no group (R114, R139). -/
theorem State.MayRun.clearBut {p : Arm} (h : s.MayRun p) (hs : s.PlaceLaws) (hi : s.IntrusionsKept)
    (P : Group → Prop) : s.ClearBut P p := by
  obtain ⟨l, hl, hover, hplace⟩ := h
  refine ⟨l, hl, hover, fun b g hb hg ht => ?_⟩
  rcases hplace with hout | ⟨-, hint⟩
  · rw [(hs.outside p l hl).1 hout] at hb
    cases hb
  · rw [hi p l hl] at hint
    exact ((partIntrudes_eq_false_iff s l.binPart).1 hint b g hb hg ht).elim

theorem PermitMove.runClearBut (h : PermitMove s t) (hs : s.PlaceLaws) (hi : s.IntrusionsKept) {P : Group → Prop}
    (hc : s.RunClearBut P) : t.RunClearBut P := by
  cases h with
  | kept h => exact h.runClearBut hc
  | @runs p g h =>
    intro q hrun
    rw [State.armState_setGuard] at hrun
    split at hrun
    · next hq => exact hq ▸ h.clearBut hs hi P
    · exact hc q hrun

/-- The bin part of such an arm is empty or stands on an entered claim (R139, R143). -/
theorem State.MayRun.entered {p : Arm} {b : Box} (h : s.MayRun p) (hs : s.PlaceLaws) (he : s.EnteredLaws)
    (hb : s.binPart p = some b) : s.EnteredContains p b := by
  obtain ⟨l, hl, -, hplace⟩ := h
  rw [binPart_eq_bind, hl] at hb
  rcases hplace with hout | ⟨hin, -⟩
  · have hnone := (hs.outside p l hl).1 hout
    rw [Option.bind_some, hnone] at hb
    cases hb
  · exact he.places p b ⟨l, hl, hb, hin⟩

theorem PermitMove.enteredLaws (h : PermitMove s t) (hs : s.PlaceLaws) (he : s.EnteredLaws) : t.EnteredLaws := by
  cases h with
  | kept h => exact h.enteredLaws he
  | @runs p g h =>
    refine ⟨he.formed, fun q b hrun hb => ?_, he.places⟩
    rw [State.armState_setGuard] at hrun
    split at hrun
    · next hq => subst hq; exact h.entered hs he hb
    · exact he.held q b hrun hb

theorem PermitMoves.placeLaws (h : PermitMoves s t) (hs : s.PlaceLaws) : t.PlaceLaws :=
  h.keeps (fun h => h.placeLaws) hs

theorem PermitMoves.intrusionsKept (h : PermitMoves s t) (hs : s.IntrusionsKept) : t.IntrusionsKept :=
  h.keeps (fun h => h.intrusionsKept) hs

theorem PermitMoves.runClearBut (h : PermitMoves s t) (hs : s.PlaceLaws) (hi : s.IntrusionsKept) {P : Group → Prop}
    (hc : s.RunClearBut P) : t.RunClearBut P := by
  have hall := h.keeps (P := fun u => u.PlaceLaws ∧ u.IntrusionsKept ∧ u.RunClearBut P)
    (fun h ⟨hs, hi, hc⟩ => ⟨h.placeLaws hs, h.intrusionsKept hi, h.runClearBut hs hi hc⟩) ⟨hs, hi, hc⟩
  obtain ⟨-, -, hclear⟩ := hall
  exact hclear

theorem PermitMoves.enteredLaws (h : PermitMoves s t) (hs : s.PlaceLaws) (he : s.EnteredLaws) : t.EnteredLaws := by
  have hall := h.keeps (P := fun u => u.PlaceLaws ∧ u.EnteredLaws)
    (fun h ⟨hs, he⟩ => ⟨h.placeLaws hs, h.enteredLaws hs he⟩) ⟨hs, he⟩
  obtain ⟨-, hentered⟩ := hall
  exact hentered

end

end Sys2Proof.Machine
end

section
/-! PROOFS. A change of a source of group activity or of the e-stop, with all that follows: the kept INTRUSION is
current again after it, and every arm in RUN is clear of the groups that it made active (R118, R130, R156 to R161,
R168). -/

namespace Sys2Proof.Machine

/-! ### What follows a change of a source -/

theorem groupDeactivated_eq {s : State} (hm : s.mode = .run) :
    s.groupDeactivated = (s.rescreen.keepIntrusions.resumeCheck .a).resumeCheck .b := if_pos hm

theorem permitMoves_groupEvent (s : State) (before : Bool) (g : Group) : PermitMoves s (s.groupEvent before g) := by
  cases hm : s.mode with
  | config => rw [groupEvent_config hm]; exact .refl s
  | run =>
    unfold State.groupEvent
    split
    · exact .refl s
    · split
      · have htable := ((permits_rescreen s).trans (permits_keepIntrusions _)).moves
        rw [groupDeactivated_eq hm]
        exact (htable.trans (permitMoves_resumeCheck _ .a)).trans (permitMoves_resumeCheck _ .b)
      · rw [groupActivated_eq hm]
        exact ((((permits_tableActivate s g).trans (permits_guardActivate _ g .a)).trans
          (permits_guardActivate _ g .b)).trans (permits_keepIntrusions _)).moves

theorem permitMoves_estopEvent (s : State) (before : Bool) : PermitMoves s (s.estopEvent before) := by
  unfold State.estopEvent
  split
  · exact .refl s
  · split
    · exact (permitMoves_resumeCheck s .a).trans (permitMoves_resumeCheck _ .b)
    · exact ((permits_stopArm s .a _).trans (permits_stopArm _ .b _)).moves

/-- All that follows a change of a source, from the change on. -/
theorem permitMoves_afterSources (s : State) (change : State → State) :
    PermitMoves (change s) (s.afterSources change) :=
  (((permitMoves_groupEvent _ _ _).trans (permitMoves_groupEvent _ _ _)).trans (permitMoves_groupEvent _ _ _)).trans
    (permitMoves_estopEvent _ _)

theorem SourcesOnly.arms {s u : State} (h : SourcesOnly s u) :
    (∀ p, u.guard p = s.guard p) ∧ ∀ p, u.record p = s.record p := by
  have hguards := congrArg State.guards h
  have hrecords := congrArg State.records h
  exact ⟨fun p => congrArg (·.get p) hguards, fun p => congrArg (·.get p) hrecords⟩

section
variable {s u : State}

/-- The source itself is no part of what the places stand on. -/
theorem SourcesOnly.placeLaws (h : SourcesOnly s u) (hs : s.PlaceLaws) : u.PlaceLaws := by
  rw [← show _ = s from h] at hs
  exact ⟨hs.idle, hs.outside, hs.live⟩

theorem SourcesOnly.enteredLaws (h : SourcesOnly s u) (hs : s.EnteredLaws) : u.EnteredLaws := by
  rw [← show _ = s from h] at hs
  exact ⟨hs.formed, hs.held, hs.places⟩

end

/-! ### The kept INTRUSION -/

/-- The event of a group whose activity has changed brings the kept INTRUSION up to date, over all groups (R118). -/
theorem intrusionsKept_groupEvent {s : State} {before : Bool} {g : Group} (hm : s.mode = .run)
    (h : before ≠ s.groupActive g) : (s.groupEvent before g).IntrusionsKept := by
  unfold State.groupEvent
  rw [if_neg h]
  split
  · rw [groupDeactivated_eq hm]
    exact ((permitMoves_resumeCheck _ .a).trans (permitMoves_resumeCheck _ .b)).intrusionsKept
      (intrusionsKept_keepIntrusions _)
  · rw [groupActivated_eq hm]
    exact intrusionsKept_keepIntrusions _

/-- While the events of a list of groups are still to be taken, the kept INTRUSION is current, or one of these groups
has changed its activity. -/
def State.IntrusionsFollow (old : Group → Bool) (pending : List Group) (s : State) : Prop :=
  s.IntrusionsKept ∨ ∃ g ∈ pending, old g ≠ s.groupActive g

/-- The laws in the midst of a source's event in device RUN, the events of a list of groups still to be taken. -/
structure State.Follows (old : Group → Bool) (pending : List Group) (s : State) : Prop where
  mode : s.mode = .run
  places : s.PlaceLaws
  intrusions : s.IntrusionsFollow old pending

theorem permitMoves_fields {s t : State} (h : PermitMoves s t) :
    t.mode = s.mode ∧ ∀ g, t.groupActive g = s.groupActive g :=
  h.keeps (P := fun u => u.mode = s.mode ∧ ∀ g, u.groupActive g = s.groupActive g)
    (fun h ⟨hm, hg⟩ => by
      cases h with
      | kept h => exact ⟨h.mode.trans hm, fun g => (h.active g).trans (hg g)⟩
      | runs _ _ => exact ⟨hm, hg⟩) ⟨rfl, fun _ => rfl⟩

theorem State.Follows.groupEvent {s : State} {old : Group → Bool} {g : Group} {pending : List Group}
    (hs : s.Follows old (g :: pending)) : (s.groupEvent (old g) g).Follows old pending := by
  have hmoves := permitMoves_groupEvent s (old g) g
  obtain ⟨hmode, hactive⟩ := permitMoves_fields hmoves
  refine ⟨hmode.trans hs.mode, hmoves.placeLaws hs.places, ?_⟩
  rcases hs.intrusions with hkept | ⟨h, hh, hchanged⟩
  · exact .inl (hmoves.intrusionsKept hkept)
  · rcases List.mem_cons.1 hh with rfl | hh
    · exact .inl (intrusionsKept_groupEvent hs.mode hchanged)
    · exact .inr ⟨h, hh, by rw [hactive]; exact hchanged⟩

/-! ### Arms in RUN -/

/-- In the midst of a source's event, every arm in RUN is clear but for the groups whose events are still to be taken
and that have become active (R130). -/
def State.RunFollows (old : Group → Bool) (pending : List Group) (s : State) : Prop :=
  s.RunClearBut fun g => g ∈ pending ∧ old g = false

theorem State.ClearBut.imp {P Q : Group → Prop} {s : State} {p : Arm} (h : s.ClearBut P p)
    (hPQ : ∀ b g, s.binPart p = some b → s.groupActive g = true → s.keepOut.touchesGroup b g = true → P g → Q g) :
    s.ClearBut Q p := by
  obtain ⟨l, hl, hover, hclear⟩ := h
  refine ⟨l, hl, hover, fun b g hb hg ht => hPQ b g ?_ hg ht (hclear b g hb hg ht)⟩
  rw [binPart_eq_bind, hl]
  exact hb

/-- An activation stops the arms in RUN that it hits (R130). -/
theorem runClearBut_guardsActivate {P : Group → Prop} {s : State} (g : Group) (hs : s.RunClearBut P) :
    (s.guardsActivate g).RunClearBut fun h => P h ∧ h ≠ g := by
  have hframe : PermitFrame False s (s.guardsActivate g) :=
    (permits_guardActivate s g .a).trans (permits_guardActivate _ g .b)
  intro p hrun
  have hmiss : s.hitBy g p = false := by
    by_contra hhit
    unfold State.armState at hrun
    have hs_run : s.armState p = .run := hframe.run p hrun
    rw [guard_guardsActivate, if_pos ⟨by simpa using hhit, .inl hs_run⟩] at hrun
    cases hrun
  refine (hframe.clearBut (hs p (hframe.run p hrun))).imp fun b h hb _ ht hP => ⟨hP, ?_⟩
  rintro rfl
  rw [hframe.binPart] at hb
  rw [hframe.keepOut] at ht
  unfold State.hitBy State.partTouches at hmiss
  rw [hb] at hmiss
  exact absurd ht (by simpa using hmiss)

/-- A group that has not become active asks nothing of an arm any more. -/
theorem State.ClearBut.drop {s : State} {p : Arm} {old : Group → Bool} {g : Group} {pending : List Group}
    (h : s.ClearBut (fun h => h ∈ g :: pending ∧ old h = false) p) (hg : old g = false → s.groupActive g = false) :
    s.ClearBut (fun h => h ∈ pending ∧ old h = false) p := by
  refine h.imp fun b h _ hactive _ ⟨hmem, hold⟩ => ⟨(List.mem_cons.1 hmem).resolve_left ?_, hold⟩
  rintro rfl
  rw [hg hold] at hactive
  cases hactive

theorem runFollows_groupEvent {s : State} {old : Group → Bool} {g : Group} {pending : List Group}
    (hs : s.Follows old (g :: pending)) (hr : s.RunFollows old (g :: pending)) :
    (s.groupEvent (old g) g).RunFollows old pending := by
  by_cases hsame : old g = s.groupActive g
  · rw [groupEvent_same hsame]
    exact fun p hrun => (hr p hrun).drop fun hold => hsame ▸ hold
  · cases hg : s.groupActive g with
    | false =>
      have hold : old g = true := by simpa [hg] using hsame
      have hbase : PermitFrame False s s.rescreen.keepIntrusions :=
        (permits_rescreen s).trans (permits_keepIntrusions _)
      have hchecks := (permitMoves_resumeCheck s.rescreen.keepIntrusions .a).trans (permitMoves_resumeCheck _ .b)
      have hclear := hchecks.runClearBut (hbase.placeLaws hs.places) (intrusionsKept_keepIntrusions _)
        (hbase.runClearBut hr)
      rw [hold, groupEvent_fall hg, groupDeactivated_eq hs.mode]
      exact fun p hrun => (hclear p hrun).drop fun ho => by rw [hold] at ho; cases ho
    | true =>
      have hold : old g = false := by simpa [hg] using hsame
      have hacted := runClearBut_guardsActivate g ((permits_tableActivate s g).runClearBut (purged := False) hr)
      have hclear := (permits_keepIntrusions _).runClearBut (purged := False) hacted
      rw [hold, groupEvent_rise hg, groupActivated_eq hs.mode]
      exact fun p hrun => (hclear p hrun).imp
        fun _ _ _ _ _ ⟨⟨hmem, ho⟩, hne⟩ => ⟨(List.mem_cons.1 hmem).resolve_left hne, ho⟩

/-! ### The whole event -/

/-- Where no group has changed its activity, the kept INTRUSION is as current as it was. -/
theorem SourcesOnly.follows {s u : State} (h : SourcesOnly s u) (hm : s.mode = .run) (hplace : s.PlaceLaws)
    (hs : s.IntrusionsKept) : u.Follows s.groupActive [.g1, .g2, .g3] := by
  obtain ⟨hmode, -, -, -, -, htouch⟩ := h.fields
  obtain ⟨-, hrecord⟩ := h.arms
  refine ⟨hmode.trans hm, h.placeLaws hplace, ?_⟩
  by_cases hsame : ∀ g, u.groupActive g = s.groupActive g
  · exact .inl (intrusionsKept_of htouch hsame (fun p => by rw [hrecord]) hs)
  · obtain ⟨g, hg⟩ := not_forall.1 hsame
    exact .inr ⟨g, mem_allGroups g, fun he => hg he.symm⟩

theorem SourcesOnly.runFollows {s u : State} (h : SourcesOnly s u) (hs : s.RunClearBut fun _ => False) :
    u.RunFollows s.groupActive [.g1, .g2, .g3] := by
  obtain ⟨-, -, -, -, -, htouch⟩ := h.fields
  obtain ⟨hguard, hrecord⟩ := h.arms
  intro p hrun
  have hrun' : s.armState p = .run := (congrArg Guard.state (hguard p)).symm.trans hrun
  obtain ⟨l, hl, hover, hclear⟩ := hs p hrun'
  refine ⟨l, by rw [hrecord]; exact hl, hover, fun b g hb _ ht => ⟨mem_allGroups g, Bool.eq_false_iff.2 fun hg => ?_⟩⟩
  exact hclear b g hb hg (htouch b g ▸ ht)

/-- In device RUN the events of the three groups leave the kept INTRUSION current, and every arm in RUN clear. -/
theorem SourcesOnly.judged {s : State} {change : State → State} (h : SourcesOnly s (change s)) (hm : s.mode = .run)
    (hplace : s.PlaceLaws) (hint : s.IntrusionsKept) :
    (s.afterSources change).IntrusionsKept ∧
      (s.RunClearBut (fun _ => False) → (s.afterSources change).RunClearBut fun _ => False) := by
  have h0 := h.follows hm hplace hint
  have h1 := h0.groupEvent
  have h2 := h1.groupEvent
  have h3 := h2.groupEvent
  have hkept := h3.intrusions.resolve_right fun ⟨_, hg, _⟩ => nomatch hg
  refine ⟨(permitMoves_estopEvent _ _).intrusionsKept hkept, fun hclear => ?_⟩
  have hrun := runFollows_groupEvent h2 (runFollows_groupEvent h1 (runFollows_groupEvent h0 (h.runFollows hclear)))
  have hclear3 : State.RunClearBut (fun _ => False) _ := fun p hr =>
    (hrun p hr).imp fun _ _ _ _ _ ⟨hg, _⟩ => nomatch hg
  exact (permitMoves_estopEvent _ _).runClearBut h3.places hkept hclear3

end Sys2Proof.Machine
end

section
/-! PROOFS. An accepted REPORT: its new bin part, where a live claim contains it, is in a claim that entry marking
enters, and an arm that runs behind it has a verdict without a stop cause (R75, R76, R87, R116, R143). -/

namespace Sys2Proof.Machine

/-! ### Claims across entry and exit marking -/

theorem Box.intersects_of_containedIn {a b : Box} (ha : a.wellFormed = true) (h : a.containedIn b = true) :
    a.intersects b = true := by
  rw [Box.wellFormed_iff] at ha
  rw [Box.containedIn_iff] at h
  rw [Box.intersects_iff]
  omega

/-- A slot whose claim is not retired keeps it live and entered. -/
theorem stays_retireAndRescreen {s : State} {ks : List (Fin 24)} {n : Option NoticeKind} {r : Bool}
    (hks : s.Retirable ks) {k : Fin 24} (hk : k ∉ ks) : BodyStays (s.body k) ((s.retireAndRescreen ks n r).body k) := by
  unfold State.retireAndRescreen
  split
  · exact .refl _
  · have hwalk := rescreenFrom_rescreened (s.retireAll ks n r).waitList [] (s.retireAll ks n r) k
    rw [body_retireAll ks n r s hks, if_neg hk] at hwalk
    exact hwalk.stays

theorem stays_markEntry (s : State) (p : Arm) (part : Option Box) (k : Fin 24) :
    BodyStays (s.body k) ((s.markEntry p part).body k) := by
  rw [body_markEntry]
  cases s.body k with
  | granted c left => dsimp only; split <;> exact ⟨fun _ h => h, nofun⟩
  | _ => exact .refl _

/-- Entry marking enters every live claim of the arm that the bin part intersects (R75). -/
theorem entered_markEntry {s : State} {p : Arm} {part : Option Box} {k : Fin 24} {c : ClaimData}
    (hc : (s.body k).live = some c) (ho : c.owner = p) (hin : partIntersects part c.box = true) :
    ((s.markEntry p part).body k).entered = some c := by
  rw [body_markEntry]
  cases hb : s.body k with
  | granted d left =>
    rw [hb] at hc
    cases hc
    dsimp only
    rw [if_pos ⟨ho, hin⟩]
    rfl
  | occupied d | releasing d => rw [hb] at hc; exact hc
  | free | waiting => rw [hb] at hc; cases hc

/-- A claim that exit marking does not retire: another arm's, or one that the bin part intersects (R87). -/
theorem not_mem_exits {s : State} {p : Arm} {part : Option Box} {k : Fin 24} {c : ClaimData}
    (hc : (s.body k).live = some c) (h : c.owner = p → partIntersects part c.box = true) : k ∉ s.exits p part := by
  intro hk
  obtain ⟨d, hd, ho, hout⟩ := (mem_exits s p part k).1 hk
  rw [hd] at hc
  cases hc
  rw [h ho] at hout
  cases hout

theorem entered_marked {s : State} {p : Arm} {part : Option Box} {k : Fin 24} {c : ClaimData}
    (hc : (s.body k).live = some c) (ho : c.owner = p) (hin : partIntersects part c.box = true) :
    (((s.markEntry p part).markExit p part).body k).entered = some c := by
  have hentered := entered_markEntry hc ho hin
  have hstays := stays_retireAndRescreen (n := some .retired) (r := true) (exits_retirable (s.markEntry p part) p part)
    (not_mem_exits (live_of_entered hentered) fun _ => hin)
  exact hstays.2 c hentered

/-- Neither marking touches a live claim of another arm. -/
theorem stays_marked_other {s : State} {p : Arm} (part : Option Box) {k : Fin 24} {c : ClaimData}
    (hc : (s.body k).live = some c) (ho : c.owner ≠ p) :
    BodyStays (s.body k) (((s.markEntry p part).markExit p part).body k) := by
  have hentry := stays_markEntry s p part k
  have hexit := stays_retireAndRescreen (n := some .retired) (r := true) (exits_retirable (s.markEntry p part) p part)
    (not_mem_exits (hentry.1 c hc) fun h => absurd h ho)
  exact ⟨fun d hd => hexit.1 d (hentry.1 d hd), fun d hd => hexit.2 d (hentry.2 d hd)⟩

/-! ### Arms across a report -/

theorem armState_marked (s : State) (p q : Arm) (part : Option Box) :
    ((s.markEntry p part).markExit p part).armState q = s.armState q := by
  have hentry : (s.markEntry p part).guard q = s.guard q := State.mapBodies_guard s _ q
  have hexit : ((s.markEntry p part).markExit p part).guard q = (s.markEntry p part).guard q :=
    (retireAndRescreen_frame _ _ _ _).guard q
  unfold State.armState
  rw [hexit, hentry]

/-- The hand-off of a verdict with a stop cause does not leave its arm in RUN (R126, R127, R139). -/
theorem takeVerdict_run {s : State} {p : Arm} {l : LastReport} (hl : (s.record p).last = some l)
    (hrun : (s.takeVerdict p l.verdict).armState p = .run) : l.verdict.causes.isEmpty = true := by
  unfold State.takeVerdict at hrun
  cases harm : s.armState p with
  | detached => simp only [harm] at hrun; cases hrun
  | lost => simp only [harm] at hrun; cases hrun
  | run =>
    simp only [harm] at hrun
    split at hrun
    · next h => exact h
    · have hstopped : ((s.startReportTimer p).enterStopped p l.verdict.causes).armState p = .stopped := by
        cases p <;> rfl
      rw [hstopped] at hrun
      cases hrun
  | stopped =>
    simp only [harm] at hrun
    by_cases hready : (s.startReportTimer p).armState p = .stopped ∧
        ((s.startReportTimer p).guard p).resumeRequested = true ∧
        ((s.startReportTimer p).guard p).stopAcknowledged = true ∧ MayResume (s.startReportTimer p) p
    · obtain ⟨-, -, -, -, -, l', hl', hplace, hi, ho⟩ := hready
      have heq : l' = l := Option.some.inj (hl'.symm.trans hl)
      subst heq
      refine (Verdict.causes_isEmpty _).2 ⟨fun he => ?_, hi, ho⟩
      rw [he] at hplace
      simp at hplace
    · rw [(guard_resumeCheck _ p).2 hready, armState_startReportTimer, harm] at hrun
      cases hrun

theorem armState_takeVerdict_other {s : State} {p q : Arm} (hq : q ≠ p) (v : Verdict) :
    (s.takeVerdict p v).armState q = s.armState q := by
  obtain rfl : q = p.other := (eq_or_eq_other p q).resolve_left hq
  have htimer : (s.startReportTimer p).armState p.other = s.armState p.other := by cases p <;> rfl
  unfold State.takeVerdict
  cases s.armState p with
  | detached | lost => rfl
  | stopped => exact (congrArg Guard.state (frame_resumeCheck (s.startReportTimer p) p).1).trans htimer
  | run =>
    dsimp only
    split
    · exact htimer
    · cases p <;> rfl

theorem armState_returnFromLost_other {s : State} {p q : Arm} (hq : q ≠ p) :
    (s.returnFromLost p).armState q = s.armState q := by
  obtain rfl : q = p.other := (eq_or_eq_other p q).resolve_left hq
  unfold State.returnFromLost
  dsimp only
  split
  · cases p <;> rfl
  · rfl

section
variable (s : State) (p : Arm) (request : ProfileName) (xa ya za : Int) (speed : Nat)

theorem armState_reportOwner_other {q : Arm} (hq : q ≠ p) :
    (reportOwner p request xa ya za speed s).state.armState q = s.armState q := by
  rw [reportOwner_state, armState_marked]
  unfold State.handedOff
  rw [armState_takeVerdict_other hq]
  exact armState_returnFromLost_other hq

/-- An arm that runs behind its report has a verdict without a stop cause (R127, R139). -/
theorem reportOwner_run (hrun : (reportOwner p request xa ya za speed s).state.armState p = .run) :
    (s.envelope p request xa ya za speed).last.verdict.causes.isEmpty = true := by
  rw [reportOwner_state, armState_marked] at hrun
  exact takeVerdict_run (by rw [State.recordReport, State.record_setRecord_self]) hrun

theorem reportOwner_last :
    ((reportOwner p request xa ya za speed s).state.record p).last =
      some (s.envelope p request xa ya za speed).last := by
  rw [reportOwner_record]

theorem reportOwner_record_of_ne {q : Arm} (hq : q ≠ p) :
    (reportOwner p request xa ya za speed s).state.record q = s.record q := by
  obtain rfl : q = p.other := (eq_or_eq_other p q).resolve_left hq
  exact reportOwner_record_other s p request xa ya za speed

theorem body_handedOff (e : Envelope) (k : Fin 24) : (s.handedOff p request e).body k = s.body k :=
  State.body_congr (armsOnly_handedOff s p request e).slots k

theorem entered_reportOwner {k : Fin 24} {c : ClaimData} (hc : (s.body k).live = some c) (ho : c.owner = p)
    (hin : partIntersects (s.envelope p request xa ya za speed).last.binPart c.box = true) :
    ((reportOwner p request xa ya za speed s).state.body k).entered = some c := by
  rw [reportOwner_state]
  exact entered_marked (by rw [body_handedOff]; exact hc) ho hin

theorem stays_reportOwner {k : Fin 24} {c : ClaimData} (hc : (s.body k).live = some c) (ho : c.owner ≠ p) :
    BodyStays (s.body k) ((reportOwner p request xa ya za speed s).state.body k) := by
  rw [reportOwner_state, ← body_handedOff s p request (s.envelope p request xa ya za speed) k]
  exact stays_marked_other _ (by rw [body_handedOff]; exact hc) ho

/-! ### The laws -/

/-- The new bin part is a well-formed box (R8, R22). -/
theorem envelope_formed (hset : s.SettingsInRange) {b : Box}
    (hb : (s.envelope p request xa ya za speed).last.binPart = some b) : b.wellFormed = true := by
  obtain ⟨hcal, -⟩ := hset
  rw [envelope_binPart] at hb
  have hswept := sweptBox_inBin (hcal p) (toolPoint (s.cal.get p) xa ya za) (s.envelope p request xa ya za speed).d
    (s.envelope p request xa ya za speed).last.verdict
  obtain ⟨-, hwf, -⟩ := hswept
  rw [envelope_swept] at hb
  exact (Box.binCut_inBin hwf hb).1

/-- A verdict CONTAINED stands behind the report on a claim that is entered (R76). -/
theorem reportOwner_entered (hset : s.SettingsInRange) {b : Box}
    (hb : (s.envelope p request xa ya za speed).last.binPart = some b)
    (hp : (s.envelope p request xa ya za speed).last.verdict.place = .contained) :
    (reportOwner p request xa ya za speed s).state.EnteredContains p b := by
  rw [envelope_verdict, ← envelope_binPart, formVerdict_contained_iff] at hp
  obtain ⟨b', k, c, hb', hlive, ho, hin⟩ := hp
  obtain rfl : b' = b := Option.some.inj (hb'.symm.trans hb)
  have hin' : partIntersects (s.envelope p request xa ya za speed).last.binPart c.box = true := by
    rw [hb]
    exact Box.intersects_of_containedIn (envelope_formed s p request xa ya za speed hset hb) hin
  exact (enteredContains_iff _ p b').2
    ⟨k, c, entered_reportOwner s p request xa ya za speed ((live_eq_some_iff s k c).2 hlive) ho hin', ho, hin⟩

/-- What another arm's place stands on stays as it was. -/
theorem reportOwner_live_other {q : Arm} (hq : q ≠ p) {b : Box} (h : s.liveClaimContains q b = true) :
    (reportOwner p request xa ya za speed s).state.liveClaimContains q b = true := by
  obtain ⟨k, c, hc, rfl, hin⟩ := (liveClaimContains_iff s q b).1 h
  exact (liveClaimContains_iff _ _ b).2 ⟨k, c, (stays_reportOwner s p request xa ya za speed hc hq).1 c hc, rfl, hin⟩

theorem reportOwner_entered_other {q : Arm} (hq : q ≠ p) {b : Box} (h : s.EnteredContains q b) :
    (reportOwner p request xa ya za speed s).state.EnteredContains q b := by
  obtain ⟨k, c, hc, rfl, hin⟩ := (enteredContains_iff s q b).1 h
  exact (enteredContains_iff _ _ b).2
    ⟨k, c, (stays_reportOwner s p request xa ya za speed (live_of_entered hc) hq).2 c hc, rfl, hin⟩

/-- A kept CONTAINED behind a report is the report's own, or another arm's that was kept before. -/
theorem keptIn_reportOwner {q : Arm} {b : Box} (h : (reportOwner p request xa ya za speed s).state.KeptIn q b) :
    (q = p ∧ (s.envelope p request xa ya za speed).last.binPart = some b ∧
        (s.envelope p request xa ya za speed).last.verdict.place = .contained) ∨
      (q ≠ p ∧ s.KeptIn q b) := by
  obtain ⟨l, hl, hb, hp⟩ := h
  by_cases hq : q = p
  · subst hq
    rw [reportOwner_last] at hl
    cases hl
    exact .inl ⟨rfl, hb, hp⟩
  · rw [reportOwner_record_of_ne s p request xa ya za speed hq] at hl
    exact .inr ⟨hq, l, hl, hb, hp⟩

theorem placeLaws_reportOwner (hset : s.SettingsInRange) (hm : s.mode = .run) (hs : s.PlaceLaws) :
    (reportOwner p request xa ya za speed s).state.PlaceLaws where
  idle hconfig := by
    rw [(reportOwner_frame s p request xa ya za speed).mode, hm] at hconfig
    cases hconfig
  outside q l hl := by
    by_cases hq : q = p
    · subst hq
      rw [reportOwner_last] at hl
      cases hl
      rw [envelope_verdict, envelope_binPart]
      exact formVerdict_outside_iff _ _ _ _ _
    · rw [reportOwner_record_of_ne s p request xa ya za speed hq] at hl
      exact hs.outside q l hl
  live q b h := by
    rcases keptIn_reportOwner s p request xa ya za speed h with ⟨rfl, hb, hp⟩ | ⟨hq, hk⟩
    · exact (reportOwner_entered s q request xa ya za speed hset hb hp).live
    · exact reportOwner_live_other s p request xa ya za speed hq (hs.live q b hk)

theorem partIntrudes_reportOwner (part : Option Box) :
    (reportOwner p request xa ya za speed s).state.partIntrudes part = s.partIntrudes part := by
  have hframe := reportOwner_frame s p request xa ya za speed
  exact State.partIntrudes_congr hframe.keepOut hframe.lines part

theorem intrusionsKept_reportOwner (hs : s.IntrusionsKept) :
    (reportOwner p request xa ya za speed s).state.IntrusionsKept := by
  intro q l hl
  rw [partIntrudes_reportOwner]
  by_cases hq : q = p
  · subst hq
    rw [reportOwner_last] at hl
    cases hl
    rw [envelope_verdict, envelope_binPart]
    rfl
  · rw [reportOwner_record_of_ne s p request xa ya za speed hq] at hl
    exact hs q l hl

theorem runClear_reportOwner (hi : s.IntrusionsKept) (hs : s.RunClearBut fun _ => False) :
    (reportOwner p request xa ya za speed s).state.RunClearBut fun _ => False := by
  have hframe := reportOwner_frame s p request xa ya za speed
  intro q hrun
  by_cases hq : q = p
  · subst hq
    obtain ⟨-, hint, hover⟩ := (Verdict.causes_isEmpty _).1 (reportOwner_run s q request xa ya za speed hrun)
    have hlast := reportOwner_last s q request xa ya za speed
    rw [intrusionsKept_reportOwner s q request xa ya za speed hi q _ hlast] at hint
    exact ⟨_, hlast, hover, (partIntrudes_eq_false_iff _ _).1 hint⟩
  · rw [armState_reportOwner_other s p request xa ya za speed hq] at hrun
    obtain ⟨l, hl, hover, hclear⟩ := hs q hrun
    refine ⟨l, by rw [reportOwner_record_of_ne s p request xa ya za speed hq]; exact hl, hover, fun b g hb hg ht => ?_⟩
    rw [State.groupActive_congr hframe.keepOut hframe.lines] at hg
    rw [hframe.keepOut] at ht
    exact hclear b g hb hg ht

theorem enteredLaws_reportOwner (hset : s.SettingsInRange) (hs : s.EnteredLaws) :
    (reportOwner p request xa ya za speed s).state.EnteredLaws where
  formed q b hb := by
    rw [binPart_eq_bind] at hb
    by_cases hq : q = p
    · subst hq
      rw [reportOwner_last] at hb
      exact envelope_formed s q request xa ya za speed hset hb
    · rw [reportOwner_record_of_ne s p request xa ya za speed hq, ← binPart_eq_bind] at hb
      exact hs.formed q b hb
  held q b hrun hb := by
    rw [binPart_eq_bind] at hb
    by_cases hq : q = p
    · subst hq
      rw [reportOwner_last] at hb
      obtain ⟨hplace, -, -⟩ := (Verdict.causes_isEmpty _).1 (reportOwner_run s q request xa ya za speed hrun)
      refine reportOwner_entered s q request xa ya za speed hset hb ?_
      cases hp : (s.envelope q request xa ya za speed).last.verdict.place with
      | contained => rfl
      | escaped => exact absurd hp hplace
      | outside =>
        rw [envelope_verdict, formVerdict_outside_iff, ← envelope_binPart] at hp
        rw [Option.bind_some, hp] at hb
        cases hb
    · rw [armState_reportOwner_other s p request xa ya za speed hq] at hrun
      rw [reportOwner_record_of_ne s p request xa ya za speed hq, ← binPart_eq_bind] at hb
      exact reportOwner_entered_other s p request xa ya za speed hq (hs.held q b hrun hb)
  places q b h := by
    rcases keptIn_reportOwner s p request xa ya za speed h with ⟨rfl, hb, hp⟩ | ⟨hq, hk⟩
    · exact reportOwner_entered s q request xa ya za speed hset hb hp
    · exact reportOwner_entered_other s p request xa ya za speed hq (hs.places q b hk)

end

end Sys2Proof.Machine
end

section
/-! PROOFS. Every command but PURGE_CLAIM as a chain of the few changes that the terms of a high permit know, and
PURGE_CLAIM as one change of its own; with the laws that each of these changes keeps. -/

namespace Sys2Proof.Machine

/-! ### What a command can do -/

/-- One change that a command makes, as the terms of a high permit see it. -/
inductive PermitChange : State → State → Prop where
  | moves {s t : State} : PermitMoves s t → PermitChange s t
  | reported {s : State} (p : Arm) (request : ProfileName) (xa ya za : Int) (speed : Nat) : s.SettingsInRange →
      s.mode = .run → PermitChange s (reportOwner p request xa ya za speed s).state
  | sources {s : State} {change : State → State} : SourcesOnly s (change s) → PermitChange s (s.afterSources change)
  /-- In CONFIG the settings, the map and the mode change, and the arms stay as the entry to CONFIG left them. -/
  | settings {s t : State} : s.mode = .config → t.guards = s.guards → t.records = s.records → PermitChange s t
  | emptied {s t : State} : t.Idle → PermitChange s t

/-- What a command does: a chain of such changes. -/
def PermitChanges (s t : State) : Prop := Relation.ReflTransGen PermitChange s t

theorem PermitChanges.refl (s : State) : PermitChanges s s := Relation.ReflTransGen.refl

theorem PermitChange.one {s t : State} (h : PermitChange s t) : PermitChanges s t := .single h

theorem PermitMoves.changes {s t : State} (h : PermitMoves s t) : PermitChanges s t := (PermitChange.moves h).one

theorem PermitFrame.changes {s t : State} (h : PermitFrame False s t) : PermitChanges s t := h.moves.changes

theorem PermitChanges.trans {s t u : State} (h : PermitChanges s t) (h' : PermitChanges t u) : PermitChanges s u :=
  Relation.ReflTransGen.trans h h'

/-- A property that each change keeps is kept by the chain. -/
theorem PermitChanges.keeps {P : State → Prop} (hP : ∀ {s t}, PermitChange s t → P s → P t) {s t : State}
    (h : PermitChanges s t) (hs : P s) : P t := by
  induction h with
  | refl => exact hs
  | tail _ h ih => exact hP h ih

/-! ### The laws -/

section
variable {s t : State}

theorem idle_of_arms (hg : t.guards = s.guards) (hr : t.records = s.records) (h : s.Idle) : t.Idle := fun p => by
  unfold State.armState State.guard State.record
  rw [hg, hr]
  exact h p

/-- In CONFIG no arm runs and no record is valid behind a change of a source (R162). -/
theorem idle_afterSources {change : State → State} (h : SourcesOnly s (change s)) (hm : s.mode = .config)
    (hs : s.PlaceLaws) : (s.afterSources change).Idle := by
  obtain ⟨hmode, -⟩ := h.fields
  have hmoves := permitMoves_afterSources s change
  exact (hmoves.placeLaws (h.placeLaws hs)).idle ((permitMoves_fields hmoves).1.trans (hmode.trans hm))

theorem PermitChange.placeLaws (h : PermitChange s t) (hs : s.PlaceLaws) : t.PlaceLaws := by
  cases h with
  | moves h => exact h.placeLaws hs
  | reported p request xa ya za speed hset hm => exact placeLaws_reportOwner s p request xa ya za speed hset hm hs
  | sources h => exact (permitMoves_afterSources s _).placeLaws (h.placeLaws hs)
  | settings hm hg hr => exact (idle_of_arms hg hr (hs.idle hm)).placeLaws
  | emptied h => exact h.placeLaws

/-- The kept INTRUSION stays current, and the arms in RUN stay clear (R118, R130). -/
theorem PermitChange.judged (h : PermitChange s t) (hs : s.PlaceLaws) (hi : s.IntrusionsKept) :
    t.IntrusionsKept ∧ (s.RunClearBut (fun _ => False) → t.RunClearBut fun _ => False) := by
  have hidle : t.Idle → t.IntrusionsKept ∧ (s.RunClearBut (fun _ => False) → t.RunClearBut fun _ => False) :=
    fun ht => ⟨ht.intrusionsKept, fun _ => ht.runClearBut _⟩
  cases h with
  | moves h => exact ⟨h.intrusionsKept hi, h.runClearBut hs hi⟩
  | reported p request xa ya za speed =>
    exact ⟨intrusionsKept_reportOwner s p request xa ya za speed hi, runClear_reportOwner s p request xa ya za speed hi⟩
  | sources h =>
    cases hm : s.mode with
    | run => exact h.judged hm hs hi
    | config => exact hidle (idle_afterSources h hm hs)
  | settings hm hg hr => exact hidle (idle_of_arms hg hr (hs.idle hm))
  | emptied h => exact hidle h

theorem PermitChange.enteredLaws (h : PermitChange s t) (hs : s.PlaceLaws) (he : s.EnteredLaws) : t.EnteredLaws := by
  cases h with
  | moves h => exact h.enteredLaws hs he
  | reported p request xa ya za speed hset => exact enteredLaws_reportOwner s p request xa ya za speed hset he
  | sources h => exact (permitMoves_afterSources s _).enteredLaws (h.placeLaws hs) (h.enteredLaws he)
  | settings hm hg hr => exact (idle_of_arms hg hr (hs.idle hm)).enteredLaws
  | emptied h => exact h.enteredLaws

end

/-! ### Answers -/

/-- A command is answered with a next state, which a chain of such changes leads to. -/
def PermitAnswered (s : State) (o : Host.Outcome State Fault Refusal) : Prop := ∃ t, o = .next t ∧ PermitChanges s t

theorem takeArmFrame_permits {s : State} {p : Arm} {owner : State → Answer} (h : PermitChanges s (owner s).state)
    (kind : Byte) : PermitAnswered s (takeArmFrame p kind owner s) := by
  cases hr : s.inReset with
  | true => exact ⟨s, takeArmFrame_held hr p kind owner, .refl s⟩
  | false => exact ⟨_, takeArmFrame_next hr p kind owner, h.trans (permits_setLink _ p _).changes⟩

theorem takeCellFrame_permits {s : State} {owner : State → CellAnswer} (h : PermitChanges s (owner s).state)
    (kind : Byte) : PermitAnswered s (takeCellFrame kind owner s) := by
  cases hr : s.inReset with
  | true => exact ⟨s, takeCellFrame_held hr kind owner, .refl s⟩
  | false => exact ⟨_, takeCellFrame_next hr kind owner, h.trans (permits_cell _ _).changes⟩

theorem takeEvent_permits {s : State} {effect : State → State} (h : PermitChanges s (effect s)) :
    PermitAnswered s (takeEvent effect s) := by
  cases hr : s.inReset with
  | true => exact ⟨s, takeEvent_held hr effect, .refl s⟩
  | false => exact ⟨_, takeEvent_next hr effect, h⟩

/-! ### The owners of arm requests -/

theorem gateRequest_permits {s : State} {p : Arm} {owner : State → Answer}
    (h : PermitChanges s (owner s).state) : PermitChanges s (gateRequest p owner s).state := by
  unfold gateRequest
  split
  · exact .refl s
  · split
    · exact .refl s
    · exact h

theorem attachOwner_permits (p : Arm) (s : State) : PermitChanges s (attachOwner p s).state := by
  unfold attachOwner
  split
  · exact .refl s
  · split
    · exact .refl s
    · next hfits =>
      exact PermitMoves.changes (.single (.runs _ (mayRun_of_attachFits (by simpa using hfits))))

theorem detachOwner_permits (p : Arm) (s : State) : PermitChanges s (detachOwner p s).state := by
  unfold detachOwner
  split
  · exact .refl s
  · split
    · exact .refl s
    · exact PermitFrame.changes ((permits_setGuard (by intro h; cases h)).trans (permits_clearFresh _ p))

theorem keepGranted_permits {s : State} {k : Fin 24} (h : s.body k = .free) (c : ClaimData) :
    PermitFrame False s (s.keepGranted k c) := by
  unfold State.keepGranted
  exact (permits_setBody (.of_not_live (by rw [h]; rfl) _)).trans (permits_joinBlockers _ _ _ _ _)

theorem keepWaiting_permits {s : State} {k : Fin 24} (h : s.body k = .free) (c : ClaimData) (bl : Blockers) :
    PermitFrame False s (s.keepWaiting k c bl) := by
  unfold State.keepWaiting
  exact ((permits_setBody (.of_not_live (by rw [h]; rfl) _)).trans (permits_waitList _ _)).trans
    (permits_joinBlockers _ _ _ _ _)

theorem claimOwner_permits (p : Arm) (cls : Byte) (box : RawBox) (s : State) :
    PermitChanges s (claimOwner p cls box s).state := by
  have hdecide : ∀ {k} c, s.body k = .free → PermitChanges s (decideClaim s k c).state := by
    intro k c hfree
    unfold decideClaim
    dsimp only
    split
    · exact (keepGranted_permits hfree c).changes
    · split
      · exact .refl s
      · split
        · exact .refl s
        · exact (keepWaiting_permits hfree c _).changes
  unfold claimOwner
  split
  · exact .refl s
  · split
    · exact .refl s
    · split
      · exact .refl s
      · split
        · exact .refl s
        · split
          · exact .refl s
          · next k hk =>
            obtain ⟨hfree, -⟩ := (firstFree_eq_some_iff s k).1 hk
            exact hdecide _ hfree

theorem withHandle_permits {p : Arm} {slot gen : Byte} {s : State} {act : Fin 24 → ClaimData → Answer}
    (h : ∀ k c, (s.body k).claim = some c → c.owner = p → PermitChanges s (act k c).state) :
    PermitChanges s (withHandle p slot gen s act).state := by
  unfold withHandle
  split
  · exact .refl s
  · split
    · exact .refl s
    · next c hc =>
      split
      · next ho => exact h _ c hc ho
      · exact .refl s

/-- A claim that RELEASE retires, since the last bin part does not intersect it, contains no bin part (R83). -/
theorem releaseLive_permits {s : State} {k : Fin 24} {c : ClaimData} (hc : (s.body k).live = some c) {p : Arm}
    (ho : c.owner = p) :
    PermitChanges s (if partIntersects (s.binPart p) c.box then
        { state := s.setBody k (.releasing c), result := .releasing, data := .empty }
      else
        { state := s.retireAndRescreen [k] none false, result := .retired, data := .empty } : Answer).state := by
  split
  · refine PermitFrame.changes (permits_setBody ⟨fun d hd => ?_, fun d hd => ?_⟩)
    · exact hc.symm.trans hd
    · exact hc.symm.trans (live_of_entered hd)
  · next hout =>
    refine PermitFrame.changes (permits_retireAndRescreen none (.single (by rw [live_isSome_claim hc]; rfl)) ?_)
    intro j hj d hd b hw hb hin
    obtain rfl := List.mem_singleton.1 hj
    obtain rfl : c = d := Option.some.inj (hc.symm.trans (live_of_entered hd))
    rw [← ho, hb] at hout
    exact absurd (Box.intersects_of_containedIn hw hin) hout

theorem releaseOwner_permits (p : Arm) (slot gen : Byte) (s : State) :
    PermitChanges s (releaseOwner p slot gen s).state := by
  refine withHandle_permits fun k c hc ho => ?_
  unfold releaseSlot
  cases hb : s.body k with
  | free | waiting | releasing => exact .refl s
  | granted d left | occupied d =>
    rw [hb] at hc
    cases hc
    exact releaseLive_permits (by rw [hb]; rfl) ho

theorem cancelOwner_permits (p : Arm) (slot gen : Byte) (s : State) :
    PermitChanges s (cancelOwner p slot gen s).state := by
  refine withHandle_permits fun k c hc _ => ?_
  split
  · next hw => exact (permits_retireOne none hc (entered_of_waiting hw)).changes
  · exact .refl s

theorem ackstopOwner_permits (p : Arm) (s : State) : PermitChanges s (ackstopOwner p s).state := by
  unfold ackstopOwner
  split
  · exact .refl s
  · have hack : PermitFrame False s (s.setGuard p { s.guard p with stopAcknowledged := true }) := permits_setGuard id
    exact (hack.moves.trans (permitMoves_resumeCheck _ p)).changes

/-! ### The owners of commands -/

theorem configOnly_permits {s : State} {owner : State → CellAnswer}
    (h : s.mode = .config → PermitChanges s (owner s).state) : PermitChanges s (configOnly owner s).state := by
  cases hm : s.mode with
  | config => rw [configOnly_pass hm]; exact h hm
  | run => rw [configOnly_run hm]; exact .refl s

/-- In CONFIG both arms are as after reset, and no record is valid (R104, R121). -/
theorem State.ConfigQuiet.idle {s : State} (h : s.ConfigQuiet) (hm : s.mode = .config) : s.Idle := by
  obtain ⟨-, -, hquiet⟩ := h hm
  intro p
  obtain ⟨hguard, hrecord, -⟩ := hquiet p
  refine ⟨fun hrun => ?_, by rw [hrecord]⟩
  unfold State.armState at hrun
  rw [hguard] at hrun
  cases hrun

theorem enterConfig_permits (s : State) : PermitChanges s s.enterConfig := by
  have hmode : s.enterConfig.mode = .config := rfl
  exact PermitChange.one (.emptied ((configQuiet_enterConfig s).idle hmode))

theorem setModeOwner_permits (target : Byte) (s : State) : PermitChanges s (setModeOwner target s).state := by
  unfold setModeOwner
  split
  · unfold enterConfigOwner
    split
    · exact .refl s
    · split
      · exact .refl s
      · exact enterConfig_permits s
  · unfold enterRunOwner
    split
    · exact .refl s
    · next hm =>
      have hconfig : s.mode = .config := by
        cases h : s.mode with
        | config => rfl
        | run => exact absurd h hm
      split
      · exact .refl s
      · exact PermitChange.one (.settings hconfig rfl rfl)
  · exact .refl s

theorem loadCalOwner_permits (arm : Byte) (sent : Calibration) (s : State) :
    PermitChanges s (loadCalOwner arm sent s).state := by
  unfold loadCalOwner
  split
  · exact .refl s
  · next p _ => exact PermitFrame.changes (t := { s with cal := s.cal.set p sent.clamped }) {}

theorem loadProfileOwner_permits (arm profile : Byte) (sent : Profile) (s : State) :
    PermitChanges s (loadProfileOwner arm profile sent s).state := by
  unfold loadProfileOwner
  split
  · next p n _ _ =>
    exact PermitFrame.changes (t := { s with profiles := s.profiles.set p ((s.profiles.get p).set n sent.clamped) }) {}
  · exact .refl s

theorem configureLine_permits (s : State) (n : Fin 8) (f : LineFunction) (pol : Polarity) (debounce : Nat) :
    PermitChanges s (s.configureLine n f pol debounce) := by
  unfold State.configureLine
  exact PermitChange.one (.sources (sourcesOnly_setLine s n _))

theorem setLineOwner_permits (line func polarity debounce : Byte) (s : State) :
    PermitChanges s (setLineOwner line func polarity debounce s).state := by
  unfold setLineOwner
  split
  · next n f pol _ _ _ => exact configureLine_permits s n f pol _
  · exact .refl s

theorem setGeometryOwner_permits {s : State} (hm : s.mode = .config) (geometry : Byte) :
    PermitChanges s (setGeometryOwner geometry s).state := by
  unfold setGeometryOwner
  split
  · exact .refl s
  · exact PermitChange.one (.settings hm rfl rfl)

theorem mapFillOwner_permits {s : State} (hm : s.mode = .config) (code : Byte) (box : RawBox) :
    PermitChanges s (mapFillOwner code box s).state := by
  unfold mapFillOwner
  split
  · exact .refl s
  · split
    · exact .refl s
    · exact PermitChange.one (.settings hm rfl rfl)

theorem mapCursorOwner_permits (index : Half) (s : State) : PermitChanges s (mapCursorOwner index s).state := by
  unfold mapCursorOwner
  split <;> exact (permits_cell s _).changes

theorem groupSetOwner_permits (group value : Byte) (s : State) :
    PermitChanges s (groupSetOwner group value s).state := by
  unfold groupSetOwner
  split
  · next g v _ _ =>
    exact PermitChange.one (.sources
      (change := fun u => { u with keepOut := { u.keepOut with flags := u.keepOut.flags.set g v } })
      (sourcesOnly_flags s _))
  · exact .refl s

theorem forceProfileOwner_permits (arm value : Byte) (s : State) :
    PermitChanges s (forceProfileOwner arm value s).state := by
  unfold forceProfileOwner
  split
  · exact PermitFrame.changes (permits_setRecord rfl)
  · exact .refl s

theorem stopOwner_permits (arm : Byte) (s : State) : PermitChanges s (stopOwner arm s).state := by
  unfold stopOwner
  split
  · exact .refl s
  · next p _ =>
    split
    · exact (permits_stopArm s p _).changes
    · exact (permits_stopArm s p _).changes
    · exact .refl s
    · exact .refl s

theorem resumeOwner_permits (arm : Byte) (s : State) : PermitChanges s (resumeOwner arm s).state := by
  unfold resumeOwner
  split
  · exact .refl s
  · next p _ =>
    have hrequest : PermitFrame False s (s.setGuard p { s.guard p with resumeRequested := true }) := permits_setGuard id
    split
    · exact (hrequest.moves.trans (permitMoves_resumeCheck _ p)).changes
    · exact .refl s

/-- PURGE_ARM ends every claim that a place of the arm could stand on, and leaves the other arm's (R92). -/
theorem purgeArmOwner_permits (arm : Byte) (s : State) : PermitChanges s (purgeArmOwner arm s).state := by
  unfold purgeArmOwner
  split
  · exact .refl s
  · next p _ =>
    split
    · exact .refl s
    · next hrun =>
      refine PermitFrame.changes (permits_retireAndRescreen _ (retirable_claimsOf s p) fun k hk c hc _ _ _ _ => ?_)
      obtain ⟨d, hd, ho⟩ := (mem_claimsOf s p k).1 hk
      obtain rfl : d = c := Option.some.inj (hd.symm.trans (live_isSome_claim (live_of_entered hc)))
      subst ho
      exact ⟨hrun, fun _ j hj => (mem_claimsOf s _ j).2 ((holdsClaim_iff s _ j).1 hj)⟩

/-- PURGE_CLAIM ends a claim of an arm that does not run; the kept place is judged against the rest (R93, R118). -/
theorem purgeClaimOwner_permits (slot gen : Byte) (s : State) :
    PermitFrame True s (purgeClaimOwner slot gen s).state := by
  unfold purgeClaimOwner
  split
  · exact .refl s
  · split
    · exact .refl s
    · next k _ c hc =>
      split
      · exact .refl s
      · next hrun =>
        refine permits_retireAndRescreen _ (.single (by rw [hc]; rfl)) fun j hj d hd _ _ _ _ => ?_
        obtain rfl := List.mem_singleton.1 hj
        obtain rfl : c = d := Option.some.inj (hc.symm.trans (live_isSome_claim (live_of_entered hd)))
        exact ⟨hrun, fun h => absurd trivial h⟩

theorem setCursorOwner_permits (slot : Byte) (s : State) : PermitChanges s (setCursorOwner slot s).state := by
  unfold setCursorOwner
  split <;> exact (permits_cell s _).changes

theorem readArmOwner_permits (arm : Byte) (s : State) : PermitChanges s (readArmOwner arm s).state := by
  unfold readArmOwner
  split <;> exact .refl s

theorem permits_writeOutputs (s : State) (f : Fin 8 → Bool → Bool) : PermitFrame False s (s.writeOutputs f) := by
  have hactive := (move_writeOutputs s f).groupActive
  exact { active := hactive, intrusion := intrusionsKept_of (fun _ _ => rfl) hactive fun _ => rfl }

theorem clearCountersOwner_permits (set : Byte) (s : State) : PermitChanges s (clearCountersOwner set s).state := by
  have harm : ∀ (u : State) (p : Arm) (named : Bool), PermitFrame False u (u.clearErrors p named) := by
    intro u p named
    unfold State.clearErrors
    split
    · exact permits_setLink u p _
    · exact .refl u
  have hcell : ∀ u : State,
      PermitFrame False u (if set.getLsbD 2 then { u with cell := { u.cell with errors := 0 } } else u) := by
    intro u
    split
    · exact permits_cell u _
    · exact .refl u
  exact ((((harm s .a _).trans (harm _ .b _)).trans (hcell _)).trans (permits_events _ _)).changes

/-! ### Failed frames, lines, timers and resets -/

theorem failFrame_permits (s : State) (link : Link) : PermitChanges s (s.failFrame link) := by
  cases link with
  | arm p => exact (((permits_setLink s p _).trans (permits_updSticky _ _)).trans (permits_setLink _ p _)).changes
  | cell => exact (((permits_cell s _).trans (permits_updSticky _ _)).trans (permits_cell _ _)).changes

theorem setFiltered_permits (s : State) (n : Fin 8) (active : Bool) : PermitChanges s (s.setFiltered n active) := by
  unfold State.setFiltered
  exact PermitChange.one (.sources (sourcesOnly_setLine s n _))

theorem changeRaw_permits (s : State) (n : Fin 8) (level : Level) : PermitChanges s (s.changeRaw n level) := by
  have hfilter : ∀ u : State, PermitChanges u (u.filterRaw n) := by
    intro u
    unfold State.filterRaw
    dsimp only
    split
    · exact PermitFrame.changes (permits_setLine rfl rfl)
    · split
      · exact setFiltered_permits u n _
      · exact PermitFrame.changes (permits_setLine rfl rfl)
  unfold State.changeRaw
  dsimp only
  split
  · exact PermitFrame.changes (permits_setLine rfl rfl)
  · split
    · exact PermitFrame.changes (permits_setLine rfl rfl)
    · split
      · exact .refl s
      · have hwire : PermitFrame False s (s.setLine n { s.line n with wire := level }) := permits_setLine rfl rfl
        exact hwire.changes.trans (hfilter _)

theorem lapseSlot_permits (s : State) (k : Fin 24) : PermitChanges s (s.lapseSlot k) := by
  unfold State.lapseSlot
  split
  · next c hb =>
    have hbody : s.flagLapse.body k = .granted c 0 := (State.flagLapse_body s k).trans hb
    have hflag : PermitFrame False s s.flagLapse := permits_updSticky s _
    exact (hflag.trans
      (permits_retireOne _ (c := c) (by rw [hbody]; rfl) (by rw [hbody]; rfl))).changes
  · exact .refl s

theorem expireWait_permits (s : State) (k : Fin 24) : PermitChanges s (s.expireWait k) := by
  unfold State.expireWait
  split
  · next c bl hb =>
    have hbody : s.flagWaitExpired.body k = .waiting c 0 bl := (State.flagWaitExpired_body s k).trans hb
    have hflag : PermitFrame False s s.flagWaitExpired := permits_updSticky s _
    exact (hflag.trans
      (permits_retireOne _ (c := c) (by rw [hbody]; rfl) (by rw [hbody]; rfl))).changes
  · exact .refl s

theorem expireReportTimer_permits (s : State) (p : Arm) : PermitChanges s (s.expireReportTimer p) := by
  unfold State.expireReportTimer
  split
  · exact (permits_enterLost s p).changes
  · exact .refl s

theorem expireFilter_permits (s : State) (n : Fin 8) : PermitChanges s (s.expireFilter n) := by
  unfold State.expireFilter
  split
  · exact setFiltered_permits s n _
  · exact .refl s

theorem millisecond_permits (s : State) : PermitChanges s s.millisecond :=
  millisecond_induction (P := PermitChanges s) s (permits_tick s).changes
    (fun t k h => h.trans (lapseSlot_permits t k)) (fun t k h => h.trans (expireWait_permits t k))
    (fun t p h => h.trans (expireReportTimer_permits t p)) fun t n h => h.trans (expireFilter_permits t n)

theorem permits_resets (s : State) (a b : Bool) : PermitFrame False s { s with resetnLow := a, supplyLow := b } := {}

theorem permits_setIncoming (s : State) (link : Link) (x : Option (List Byte)) :
    PermitFrame False s (s.setIncoming link x) := by
  cases link with
  | arm p => exact permits_setLink s p _
  | cell => exact permits_cell s _

/-- A reset begins, or goes on, and the frames in progress are abandoned (R173). -/
theorem abandonFrames_permits (s : State) (a b : Bool) :
    PermitChanges s { s.abandonFrames with resetnLow := a, supplyLow := b } := by
  have hframes : PermitFrame False s s.abandonFrames :=
    ((permits_setIncoming s _ _).trans (permits_setIncoming _ _ _)).trans (permits_setIncoming _ _ _)
  exact (hframes.trans (permits_resets s.abandonFrames a b)).changes

theorem endReset_permits (s : State) : PermitChanges s s.endReset :=
  PermitChange.one (.emptied ((configQuiet_endReset s).idle rfl))

/-! ### Every command -/

/-- Every command but PURGE_CLAIM is answered by a chain of such changes. -/
theorem exec_permits {i : Instr} {s : State} (hset : s.SettingsInRange) (hi : ∀ slot gen, i ≠ .purgeClaim slot gen) :
    PermitAnswered s (exec i s) := by
  cases i <;> dsimp only [exec]
  case nop => exact takeArmFrame_permits (.refl s) _
  case attach arm => exact takeArmFrame_permits (gateRequest_permits (attachOwner_permits arm s)) _
  case detach arm => exact takeArmFrame_permits (gateRequest_permits (detachOwner_permits arm s)) _
  case report arm arg xa ya za v =>
    refine takeArmFrame_permits ?_ _
    cases hm : s.mode with
    | config => exact .refl s
    | run => exact PermitChange.one (.reported arm _ _ _ _ _ hset hm)
  case claim arm cls box => exact takeArmFrame_permits (gateRequest_permits (claimOwner_permits arm cls box s)) _
  case release arm slot gen => exact takeArmFrame_permits (gateRequest_permits (releaseOwner_permits arm slot gen s)) _
  case cancel arm slot gen => exact takeArmFrame_permits (gateRequest_permits (cancelOwner_permits arm slot gen s)) _
  case query => exact takeArmFrame_permits (gateRequest_permits (withHandle_permits fun _ _ _ _ => .refl s)) _
  case list arm start => exact takeArmFrame_permits (gateRequest_permits (permits_setLink s arm _).changes) _
  case ackstop arm => exact takeArmFrame_permits (gateRequest_permits (ackstopOwner_permits arm s)) _
  case unknownKind link kind =>
    cases link <;> dsimp only [execUnknownKind]
    case arm p => exact takeArmFrame_permits (.refl s) _
    case cell => exact takeCellFrame_permits (.refl s) _
  case frameFailed link => exact takeEvent_permits (failFrame_permits s link)
  case setModeRun target => exact takeCellFrame_permits (setModeOwner_permits target s) _
  case setModeConfig => exact takeCellFrame_permits (setModeOwner_permits 0 s) _
  case loadCal => exact takeCellFrame_permits (configOnly_permits fun _ => loadCalOwner_permits _ _ s) _
  case loadProfile => exact takeCellFrame_permits (configOnly_permits fun _ => loadProfileOwner_permits _ _ _ s) _
  case loadTiming | mapClear =>
    exact takeCellFrame_permits (configOnly_permits fun hm => PermitChange.one (.settings hm rfl rfl)) _
  case setLine => exact takeCellFrame_permits (configOnly_permits fun _ => setLineOwner_permits _ _ _ _ s) _
  case setGeometry => exact takeCellFrame_permits (configOnly_permits fun hm => setGeometryOwner_permits hm _) _
  case mapFill => exact takeCellFrame_permits (configOnly_permits fun hm => mapFillOwner_permits hm _ _) _
  case mapCursor => exact takeCellFrame_permits (configOnly_permits fun _ => mapCursorOwner_permits _ s) _
  case mapRead | readClaim => exact takeCellFrame_permits (permits_cell s _).changes _
  case groupSet => exact takeCellFrame_permits (groupSetOwner_permits _ _ s) _
  case forceProfile => exact takeCellFrame_permits (forceProfileOwner_permits _ _ s) _
  case stop => exact takeCellFrame_permits (stopOwner_permits _ s) _
  case resume => exact takeCellFrame_permits (resumeOwner_permits _ s) _
  case purgeArm => exact takeCellFrame_permits (purgeArmOwner_permits _ s) _
  case purgeClaim slot gen => exact absurd rfl (hi slot gen)
  case setCursor => exact takeCellFrame_permits (setCursorOwner_permits _ s) _
  case readArm => exact takeCellFrame_permits (readArmOwner_permits _ s) _
  case setOut | toggleOut => exact takeCellFrame_permits (permits_writeOutputs s _).changes _
  case clearEvents flags =>
    have hclear : PermitFrame False s (s.clearFlags flags) := permits_updSticky s _
    exact takeCellFrame_permits hclear.changes _
  case setMask | setAccEnable => exact takeCellFrame_permits (permits_events s _).changes _
  case clearCounters => exact takeCellFrame_permits (clearCountersOwner_permits _ s) _
  case cellNop | ident | readLines | readEvents | readCounters => exact takeCellFrame_permits (.refl s) _
  case lapse => exact takeEvent_permits (lapseSlot_permits s _)
  case waitExpiry => exact takeEvent_permits (expireWait_permits s _)
  case reportTimerExpiry => exact takeEvent_permits (expireReportTimer_permits s _)
  case rawLevelChange => exact ⟨_, rfl, changeRaw_permits s _ _⟩
  case filterTimerExpiry => exact takeEvent_permits (expireFilter_permits s _)
  case accumulatorStep => exact takeEvent_permits (millisecond_permits s)
  case resetnAssert => exact ⟨_, rfl, abandonFrames_permits s true s.supplyLow⟩
  case supplyBelowPowerOnThreshold => exact ⟨_, rfl, abandonFrames_permits s s.resetnLow true⟩
  case resetnRelease =>
    refine ⟨_, rfl, ?_⟩
    split
    · exact (permits_resets s false s.supplyLow).changes
    · exact endReset_permits s
  case powerOnReset =>
    refine ⟨_, rfl, ?_⟩
    split
    · exact abandonFrames_permits s s.resetnLow false
    · exact endReset_permits s

/-- PURGE_CLAIM leaves every place that it keeps on a live claim. -/
theorem exec_purgeClaim_permits (slot gen : Byte) (s : State) :
    ∃ t, exec (.purgeClaim slot gen) s = .next t ∧ PermitFrame True s t := by
  cases hr : s.inReset with
  | true => exact ⟨s, takeCellFrame_held hr 0x11 _, .refl s⟩
  | false =>
    exact ⟨_, takeCellFrame_next hr 0x11 _, (purgeClaimOwner_permits slot gen s).trans (permits_cell _ _)⟩

end Sys2Proof.Machine
end

section
/-! PROOFS. The terms of a high permit outlast every step (R143): O60. -/

namespace Sys2Proof.Machine

section
variable {s : State}

/-! ### From the laws of the model, and back to them -/

theorem placeLaws_of_verdicts (hq : s.ConfigQuiet) (hv : s.VerdictsKept) : s.PlaceLaws := by
  have hlast : ∀ {p l}, (s.record p).last = some l → s.mode = .run := by
    intro p l hl
    cases hm : s.mode with
    | run => rfl
    | config =>
      rw [(hq.idle hm p).2] at hl
      cases hl
  refine ⟨hq.idle, fun p l hl => ?_, fun p b ⟨l, hl, hb, hp⟩ => ?_⟩
  · obtain ⟨-, hout, -⟩ := hv p l (hlast hl) hl
    exact hout
  · obtain ⟨-, -, hlive⟩ := hv p l (hlast hl) hl
    exact hlive b hb hp

theorem intrusionsKept_of_verdicts (hq : s.ConfigQuiet) (hv : s.VerdictsKept) : s.IntrusionsKept := by
  cases hm : s.mode with
  | config => exact (hq.idle hm).intrusionsKept
  | run =>
    intro p l hl
    obtain ⟨hi, -⟩ := hv p l hm hl
    exact hi

theorem runClear_of_runArmsClear (h : s.RunArmsClear) : s.RunClearBut fun _ => False := by
  intro p hrun
  obtain ⟨-, l, hl, hover, hclear⟩ := h p hrun
  exact ⟨l, hl, hover, (partIntrudes_eq_false_iff s l.binPart).1 hclear⟩

theorem enteredLaws_of_placesEntered (hq : s.ConfigQuiet) (hparts : s.PartsInBin) (hheld : s.ContainingClaimHeld)
    (hplaces : s.PlacesEntered) : s.EnteredLaws := by
  refine ⟨fun p b hb => ?_, hheld, fun p b hk => ?_⟩
  · rw [binPart_eq_bind] at hb
    obtain ⟨l, hl, hb⟩ := Option.bind_eq_some_iff.1 hb
    obtain ⟨hcut, hwf, -⟩ := hparts p l hl
    exact (Box.binCut_inBin hwf (hcut ▸ hb)).1
  · cases hm : s.mode with
    | config => exact (hq.idle hm).enteredLaws.places p b hk
    | run =>
      obtain ⟨l, hl, hb, hp⟩ := hk
      exact hplaces p l b hm hl hb hp

/-- A clear arm whose bin part stands on an entered claim holds the terms of a high permit (R143). -/
theorem permitsHonest_of_laws (hc : s.RunClearBut fun _ => False) (hh : s.ContainingClaimHeld) : s.PermitsHonest := by
  intro p hrun
  obtain ⟨l, hl, hover, hclear⟩ := hc p hrun
  refine ⟨l, hl, hover, ?_⟩
  cases hb : l.binPart with
  | none => exact .inl rfl
  | some b =>
    have hpart : s.binPart p = some b := by
      rw [binPart_eq_bind, hl]
      exact hb
    exact .inr ⟨b, rfl, (hh p b hrun hpart).live, (activeGroupsTouched_eq_nil_iff s b).2 fun g => hclear b g hb⟩

/-- A live claim is entered or GRANTED (R29). -/
theorem entered_or_granted {p : Arm} {b : Box} (h : s.liveClaimContains p b = true) :
    s.EnteredContains p b ∨ ∃ k c left, s.body k = .granted c left ∧ c.owner = p ∧ b.containedIn c.box = true := by
  obtain ⟨k, c, hc, ho, hin⟩ := (liveClaimContains_iff s p b).1 h
  rcases (live_eq_some_iff s k c).1 hc with ⟨left, hb⟩ | hb | hb
  · exact .inr ⟨k, c, left, hb, ho, hin⟩
  · exact .inl ⟨k, c, .inl hb, ho, hin⟩
  · exact .inl ⟨k, c, .inr hb, ho, hin⟩

end

/-! ### Every step -/

/-- The laws behind the terms of a high permit, but for the claims that kept places stand on. -/
structure State.PermitLaws (s : State) : Prop where
  places : s.PlaceLaws
  intrusions : s.IntrusionsKept
  clear : s.RunClearBut fun _ => False

theorem PermitChange.permitLaws {s t : State} (h : PermitChange s t) (hs : s.PermitLaws) : t.PermitLaws := by
  obtain ⟨hint, hclear⟩ := h.judged hs.places hs.intrusions
  exact ⟨h.placeLaws hs.places, hint, hclear hs.clear⟩

/-- Every command keeps the laws, and the claim that holds a running arm's bin part; and every command but PURGE_CLAIM
keeps the claims that places stand on entered (log entry 9). -/
theorem exec_keeps_permitLaws {i : Instr} {s t : State} (hset : s.SettingsInRange) (hs : s.PermitLaws)
    (he : s.EnteredLaws) (h : exec i s = .next t) :
    t.PermitLaws ∧ t.ContainingClaimHeld ∧ ((∀ slot gen, i ≠ .purgeClaim slot gen) → t.EnteredLaws) := by
  by_cases hi : ∀ slot gen, i ≠ .purgeClaim slot gen
  · obtain ⟨u, hnext, hchanges⟩ := exec_permits hset hi
    rw [hnext] at h
    cases h
    obtain ⟨hlaws, hentered⟩ := hchanges.keeps (P := fun u => u.PermitLaws ∧ u.EnteredLaws)
      (fun h ⟨hs, he⟩ => ⟨h.permitLaws hs, h.enteredLaws hs.places he⟩) ⟨hs, he⟩
    exact ⟨hlaws, hentered.held, fun _ => hentered⟩
  · obtain ⟨slot, gen, rfl⟩ : ∃ slot gen, i = .purgeClaim slot gen := by simpa using hi
    obtain ⟨u, hnext, hframe⟩ := exec_purgeClaim_permits slot gen s
    rw [hnext] at h
    cases h
    exact ⟨⟨hframe.placeLaws hs.places, hframe.intrusion hs.intrusions, hframe.runClearBut hs.clear⟩,
      hframe.containingClaimHeld he, fun hne => absurd rfl (hne slot gen)⟩

/-- Settles O60: the laws behind the terms of a high permit outlast every command, and give its terms back. -/
theorem stepKeepsPermitTerms : Obligations.StepKeepsPermitTerms := by
  intro s t hq hset hparts hv hclear _ hheld hplaces h
  have hlaws : s.PermitLaws :=
    ⟨placeLaws_of_verdicts hq hv, intrusionsKept_of_verdicts hq hv, runClear_of_runArmsClear hclear⟩
  have hentered := enteredLaws_of_placesEntered hq hparts hheld hplaces
  have hall : t.PermitLaws ∧ t.ContainingClaimHeld ∧
      ((∀ slot gen rest, s.pending ≠ .purgeClaim slot gen :: rest) → t.EnteredLaws) := by
    unfold step at h
    split at h
    · cases h
      exact ⟨hlaws, hheld, fun _ => hentered⟩
    · next i rest hpending =>
      have hpop : PermitFrame False s { s with pending := rest } := {}
      obtain ⟨hlaws', hheld', hentered'⟩ := exec_keeps_permitLaws (s := { s with pending := rest }) hset
        ⟨hpop.placeLaws hlaws.places, hpop.intrusion hlaws.intrusions, hpop.runClearBut hlaws.clear⟩
        (hpop.enteredLaws hentered) h
      exact ⟨hlaws', hheld', fun hne => hentered' fun slot gen hi => hne slot gen rest (hi ▸ hpending)⟩
  obtain ⟨hlaws', hheld', hentered'⟩ := hall
  exact ⟨permitsHonest_of_laws hlaws'.clear hheld', hheld',
    fun hne p l b _ hl hb hp => (hentered' hne).places p b ⟨l, hl, hb, hp⟩,
    fun p l b _ hl hb hp => entered_or_granted (hlaws'.places.live p b ⟨l, hl, hb, hp⟩)⟩

end Sys2Proof.Machine
end

section
/-! PROOFS. The kept verdicts stay current, and the arms in RUN stay clear, across every step (R118, R127, R130, R142):
O59. -/

namespace Sys2Proof.Machine

/-- The verdict kept of a report is current: its place, which stands on the live claims, and its INTRUSION, which stands
on the active groups (R118). -/
structure State.VerdictLaws (s : State) : Prop where
  places : s.PlaceLaws
  intrusions : s.IntrusionsKept

theorem State.VerdictLaws.verdictsKept {s : State} (h : s.VerdictLaws) : s.VerdictsKept := fun p l _ hl =>
  ⟨h.intrusions p l hl, h.places.outside p l hl, fun b hb hp => h.places.live p b ⟨l, hl, hb, hp⟩⟩

/-- No arm runs in CONFIG (R142), and a part that touches no active group does not intrude (R114). -/
theorem State.VerdictLaws.runArmsClear {s : State} (h : s.VerdictLaws) (hc : s.RunClearBut fun _ => False) :
    s.RunArmsClear := by
  intro p hrun
  obtain ⟨l, hl, hover, hclear⟩ := hc p hrun
  refine ⟨?_, l, hl, hover, (partIntrudes_eq_false_iff s l.binPart).2 hclear⟩
  cases hm : s.mode with
  | run => rfl
  | config => exact absurd hrun (h.places.idle hm p).1

/-- From s on to t the kept verdicts are still current, and arms in RUN that were clear are so again. -/
def JudgedOn (s t : State) : Prop :=
  t.VerdictLaws ∧ (s.RunClearBut (fun _ => False) → t.RunClearBut fun _ => False)

theorem PermitFrame.judgedOn {purged : Prop} {s t : State} (h : PermitFrame purged s t) (hs : s.VerdictLaws) :
    JudgedOn s t :=
  ⟨⟨h.placeLaws hs.places, h.intrusion hs.intrusions⟩, h.runClearBut⟩

theorem PermitChange.judgedOn {s t : State} (h : PermitChange s t) (hs : s.VerdictLaws) : JudgedOn s t := by
  obtain ⟨hintrusions, hclear⟩ := h.judged hs.places hs.intrusions
  exact ⟨⟨h.placeLaws hs.places, hintrusions⟩, hclear⟩

theorem PermitChanges.judgedOn {s t : State} (h : PermitChanges s t) (hs : s.VerdictLaws) : JudgedOn s t :=
  h.keeps (P := JudgedOn s)
    (fun h ⟨hlaws, hclear⟩ =>
      have ⟨hlaws', hclear'⟩ := h.judgedOn hlaws
      ⟨hlaws', fun hs => hclear' (hclear hs)⟩)
    ⟨hs, id⟩

/-- Every command keeps the verdicts current: PURGE_CLAIM, which judges the kept place again, as well (R118). -/
theorem exec_judgedOn {i : Instr} {s t : State} (hset : s.SettingsInRange) (hs : s.VerdictLaws)
    (h : exec i s = .next t) : JudgedOn s t := by
  by_cases hi : ∀ slot gen, i ≠ .purgeClaim slot gen
  · obtain ⟨u, hnext, hchanges⟩ := exec_permits hset hi
    rw [hnext] at h
    cases h
    exact hchanges.judgedOn hs
  · obtain ⟨slot, gen, rfl⟩ : ∃ slot gen, i = .purgeClaim slot gen := by simpa using hi
    obtain ⟨u, hnext, hframe⟩ := exec_purgeClaim_permits slot gen s
    rw [hnext] at h
    cases h
    exact hframe.judgedOn hs

theorem step_judgedOn {s t : State} (hset : s.SettingsInRange) (hs : s.VerdictLaws) (h : step s = .next t) :
    JudgedOn s t := by
  unfold step at h
  split at h
  · cases h
    exact ⟨hs, id⟩
  · next i rest _ =>
    have hpop : PermitFrame False s { s with pending := rest } := {}
    obtain ⟨hpopped, hclear⟩ := hpop.judgedOn hs
    obtain ⟨hlaws, hclear'⟩ := exec_judgedOn (s := { s with pending := rest }) hset hpopped h
    exact ⟨hlaws, fun hc => hclear' (hclear hc)⟩

/-- Settles O59: the laws of the kept places and of the kept INTRUSION outlast every step, and with them the clear arms
in RUN. -/
theorem stepKeepsVerdicts : Obligations.StepKeepsVerdicts := by
  intro s t hq hset hv h
  have hlaws : s.VerdictLaws := ⟨placeLaws_of_verdicts hq hv, intrusionsKept_of_verdicts hq hv⟩
  obtain ⟨hlaws', hclear⟩ := step_judgedOn hset hlaws h
  exact ⟨hlaws'.verdictsKept, fun hc => hlaws'.runArmsClear (hclear (runClear_of_runArmsClear hc))⟩

end Sys2Proof.Machine
end

section
/-! PROOFS. The deactivation of a group in device RUN: the resume checks of both arms behind the re-screen and the kept
INTRUSIONs, and the two changes that make it, by GROUP_SET and by a GUARD_IN line (R118, R140, R154 to R156, R161):
O45. -/

namespace Sys2Proof.Machine

/-! ### The resume checks of both arms -/

section
variable {s s' t t' : State} {p : Arm}

/-- The conditions of a resume are read from the lines and the report records alone (R139). -/
theorem mayResume_congr (hlines : t.lines = s.lines) (hrecords : t.records = s.records) :
    MayResume t p ↔ MayResume s p := by
  unfold MayResume State.record
  rw [State.estopActive_congr hlines, hrecords]

theorem mayResume_resumeCheck (s : State) (q p : Arm) : MayResume (s.resumeCheck q) p ↔ MayResume s p :=
  mayResume_congr (resumeCheck_frame s q).lines (records_resumeCheck s q)

/-- The outcome of a resume check is told in the guard controller records before and after it, and the conditions. -/
theorem Rechecked.congr (h : Rechecked s t p) (hbefore : s'.guard p = s.guard p) (hafter : t'.guard p = t.guard p)
    (hmay : MayResume t' p ↔ MayResume t p) : Rechecked s' t' p := by
  unfold Rechecked State.armState at h ⊢
  rwa [hbefore, hafter, hmay]

theorem rechecked_resumeCheck (s : State) (p : Arm) : Rechecked s (s.resumeCheck p) p := by
  obtain ⟨hready, hnot⟩ := guard_resumeCheck s p
  unfold Rechecked
  rw [mayResume_resumeCheck]
  exact ⟨hready, fun h => by rw [hnot h]⟩

/-- The check of one arm reaches the other's neither in its record nor in its conditions (R140). -/
theorem rechecked_resumeChecks (s : State) (p : Arm) : Rechecked s ((s.resumeCheck .a).resumeCheck .b) p := by
  obtain ⟨hb, -⟩ := frame_resumeCheck s .a
  obtain ⟨ha, -⟩ := frame_resumeCheck (s.resumeCheck .a) .b
  cases p with
  | a => exact (rechecked_resumeCheck s .a).congr rfl ha (mayResume_resumeCheck _ .b .a)
  | b => exact (rechecked_resumeCheck (s.resumeCheck .a) .b).congr hb.symm rfl Iff.rfl

theorem frame_resumeChecks (s : State) : { (s.resumeCheck .a).resumeCheck .b with guards := s.guards } = s := by
  obtain ⟨-, ha⟩ := frame_resumeCheck s .a
  obtain ⟨-, hb⟩ := frame_resumeCheck (s.resumeCheck .a) .b
  exact (congrArg (fun u : State => { u with guards := s.guards }) hb).trans ha

end

/-! ### The whole deactivation -/

/-- A re-screen alone loses no kept place (R118). -/
theorem record_rescreen (s : State) (p : Arm) : s.rescreen.record p = s.record p := by
  obtain ⟨-, hrecords, -⟩ := rescreenFrom_frame s.waitList [] s
  exact congrArg (·.get p) hrecords

/-- What the deactivation does in device RUN is what `GroupDeactivates` says (R161). -/
theorem groupDeactivated_deactivates {s : State} (hm : s.mode = .run) (hw : s.WaitListExact) :
    GroupDeactivates s s.groupDeactivated := by
  obtain ⟨hnodup, -⟩ := hw
  have htable := rescreen_event s hnodup
  have hkept := frame_keepIntrusions s.rescreen
  have hsame := congrArg State.guards hkept
  have hguards : s.rescreen.keepIntrusions.guards = s.rescreen.guards := hsame
  have hchecks := frame_resumeChecks s.rescreen.keepIntrusions
  have hintrudes : s.rescreen.partIntrudes = s.partIntrudes :=
    funext (State.partIntrudes_congr htable.frame.keepOut htable.frame.lines)
  rw [groupDeactivated_eq hm]
  refine ⟨s.rescreen, htable, fun p => ?_, fun p => ?_, ?_⟩
  · have hrecord : ((s.rescreen.keepIntrusions.resumeCheck .a).resumeCheck .b).record p =
        s.rescreen.keepIntrusions.record p :=
      congrArg (·.get p) ((records_resumeCheck _ .b).trans (records_resumeCheck _ .a))
    rw [hrecord, record_keepIntrusions, record_rescreen, hintrudes]
  · have hguard : s.rescreen.keepIntrusions.guard p = s.guard p :=
      (congrArg (·.get p) hguards).trans (htable.frame.guard p)
    exact (rechecked_resumeChecks s.rescreen.keepIntrusions p).congr hguard.symm rfl Iff.rfl
  · rw [hguards] at hchecks
    exact (congrArg (fun u : State => { u with records := s.rescreen.records }) hchecks).trans hkept

/-- A change of one group's sources that deactivates the group in device RUN (R156, R161). -/
theorem afterSources_deactivates {s : State} {change : State → State} {g : Group} (hm : s.mode = .run)
    (hw : s.WaitListExact) (hon : s.groupActive g = true) (hoff : (change s).groupActive g = false)
    (hsources : SourcesOnly s (change s)) (hothers : ∀ h, h ≠ g → (change s).groupActive h = s.groupActive h)
    (hestop : (change s).estopActive = s.estopActive) :
    GroupDeactivates (change s) (s.afterSources change) := by
  obtain ⟨hmode, -⟩ := hsources.fields
  rw [afterSources_group hothers hestop, hon, groupEvent_fall hoff]
  exact groupDeactivated_deactivates (hmode.trans hm) (hsources.waitListExact hw)

/-! ### GROUP_SET, and a filtered level -/

theorem flagValueOf_zero {b : Byte} (h : b.toNat = 0) : flagValueOf b = some false := by
  unfold flagValueOf
  rw [h]
  rfl

/-- Clearing the flag of a group that no line holds active deactivates it in device RUN (R154, R155). -/
theorem clearFlag_deactivates {s : State} {g : Group} (hm : s.mode = .run) (hw : s.WaitListExact)
    (hon : s.groupActive g = true) (hline : s.groupLineActive g = false) :
    GroupDeactivates (s.setFlag g false) (s.afterSources fun u => u.setFlag g false) :=
  have hoff : (s.setFlag g false).groupActive g = false := by
    rw [groupActive_setFlag, if_pos rfl, hline, Bool.false_or]
  have hothers : ∀ h, h ≠ g → (s.setFlag g false).groupActive h = s.groupActive h := fun h hh => by
    rw [groupActive_setFlag, if_neg hh]
  afterSources_deactivates (change := fun u => u.setFlag g false) hm hw hon hoff (sourcesOnly_flags s _) hothers rfl

/-- A change of a GUARD_IN line's filtered level is a change of its own group's sources alone (R154, R168). -/
theorem FilteredChange.guardIn {s s0 : State} {n : Fin 8} {i : Instr} {g : Group} (hfunc : (s.line n).func = .guardIn g)
    (h : FilteredChange s n i s0) :
    SourcesOnly s s0 ∧ (∀ h, h ≠ g → s0.groupActive h = s.groupActive h) ∧ s0.estopActive = s.estopActive := by
  obtain ⟨l, hl, rfl⟩ := h.setLine
  refine ⟨sourcesOnly_setLine s n l, fun h hh => ?_, ?_⟩
  · have hne : (s.line n).func ≠ .guardIn h := by
      rw [hfunc]
      intro he
      cases he
      exact hh rfl
    simp only [State.groupActive, State.groupLineActive, State.setLine_keepOut, sourceLine_other hl hne]
  · have hne : (s.line n).func ≠ .estopIn := by rw [hfunc]; nofun
    simp only [State.estopActive, sourceLine_other hl hne]

/-- Settles O45: a flag or a line that deactivates a group has the one event that `GroupDeactivates` tells of. -/
theorem groupDeactivation : Obligations.GroupDeactivation := by
  intro g s hr hm hw hon
  refine ⟨fun group value hgroup hvalue hline =>
    ⟨_, groupSet_next hr (groupOf_mapCode hgroup) (flagValueOf_zero hvalue), clearFlag_deactivates hm hw hon hline⟩,
    fun n i s0 hfunc hchange hoff => ?_⟩
  obtain ⟨hsources, hothers, hestop⟩ := hchange.guardIn hfunc
  obtain ⟨change, rfl, hexec⟩ := filteredChange_next hr hchange
  exact ⟨_, hexec, afterSources_deactivates hm hw hon hoff hsources hothers hestop⟩

end Sys2Proof.Machine
end

section
/-! PROOFS. FORCE_PROFILE, SET_OUT and TOGGLE_OUT (R109, R170): O39. -/

namespace Sys2Proof.Machine

/-! ### FORCE_PROFILE -/

theorem forcedOf_forcedCode {b : Byte} {f : Option ProfileName} (h : b.toNat = forcedCode f) : forcedOf b = some f := by
  unfold forcedOf
  rw [h]
  cases f with
  | none => rfl
  | some n => cases n <;> rfl

theorem forcedOf_eq_none {b : Byte} (h : 2 < b.toNat) : forcedOf b = none := by
  unfold forcedOf
  split
  · omega
  · omega
  · omega
  · rfl

/-- FORCE_PROFILE of an arm and a forced profile sets that one field (R109). -/
theorem forceProfileOwner_ok {arm value : Byte} {p : Arm} {f : Option ProfileName} (s : State)
    (harm : arm.toNat = armCode p) (hvalue : value.toNat = forcedCode f) :
    forceProfileOwner arm value s = okCell (s.setRecord p { s.record p with forced := f }) := by
  unfold forceProfileOwner
  rw [(armOf_eq_some arm p).2 harm, forcedOf_forcedCode hvalue]

theorem forceProfileOwner_badArg {arm value : Byte} (s : State) (h : 1 < arm.toNat ∨ 2 < value.toNat) :
    forceProfileOwner arm value s = refuseCell s .badArg := by
  unfold forceProfileOwner
  rcases h with harm | hvalue
  · rw [armOf_eq_none harm]
  · rw [forcedOf_eq_none hvalue]
    cases armOf arm <;> rfl

/-! ### SET_OUT and TOGGLE_OUT -/

/-- A command that writes general-output values answers with all eight of them, and writes nothing else (R170). -/
theorem takeCellFrame_outputs {s : State} (hr : s.inReset = false) (kind : Byte) (f : Fin 8 → Bool → Bool) :
    ∃ t : State, takeCellFrame kind (fun u => okOutputs (u.writeOutputs f)) s =
        .next (t.replyCell kind .ok false (.outputs (allLines.map fun n => (t.line n).out))) ∧
      (∀ n : Fin 8, t.line n = { s.line n with out := f n (s.line n).out }) ∧ { t with lines := s.lines } = s :=
  ⟨s.writeOutputs f, takeCellFrame_next hr kind _, fun n => State.line_writeOutputs s f n, rfl⟩

/-- Settles O39: the two answers of FORCE_PROFILE, and one write of outputs under both SET_OUT and TOGGLE_OUT. -/
theorem forcedProfileAndOutputs : Obligations.ForcedProfileAndOutputs := by
  refine ⟨by decide, fun s hr => ⟨fun arm value => ⟨fun hbad => ?_, fun p f harm hvalue => ?_⟩, fun lines values => ?_,
    fun lines => ?_⟩⟩
  · have hnext := takeCellFrame_next hr 0x0D (forceProfileOwner arm value)
    rw [forceProfileOwner_badArg s hbad] at hnext
    exact hnext
  · have hnext := takeCellFrame_next hr 0x0D (forceProfileOwner arm value)
    rw [forceProfileOwner_ok s harm hvalue] at hnext
    exact hnext
  · exact takeCellFrame_outputs hr 0x15 fun n old => if lines.getLsbD n then values.getLsbD n else old
  · exact takeCellFrame_outputs hr 0x16 fun n old => if lines.getLsbD n then !old else old

end Sys2Proof.Machine
end

section
/-! PROOFS. The cells of the keep-out map as boxes: they tile the bin, and a box touches the cells that it intersects;
with what touching says of the groups (R114, R145 to R148): O10. -/

namespace Sys2Proof.Machine

/-! ### A cell as a box -/

theorem Geometry.edges_pos (g : Geometry) : 0 < g.edgeXY ∧ 0 < g.edgeZ := by cases g <;> decide

theorem cellBox_wellFormed (g : Geometry) (i : Nat) : (cellBox g i).wellFormed = true := by
  obtain ⟨hxy, hz⟩ := g.edges_pos
  rw [Box.wellFormed_iff]
  simp only [cellBox]
  omega

/-- A cell lies in the bin: its edge goes into the bin as often as the axis has cells (R2, R145). -/
theorem cellBox_inBin (g : Geometry) {i : Nat} (hi : i < 4096) : (cellBox g i).containedIn binVolume = true := by
  rw [Box.containedIn_iff, binVolume_eq]
  cases g <;> simp only [cellBox, Geometry.nxy, Geometry.edgeXY, Geometry.edgeZ] <;> omega

/-- On one axis the range of R147 names the cells that share a point with the interval. -/
theorem inIndexRange_iff {i edge : Nat} {lo hi : Int} (he : 0 < edge) (hlo : 0 ≤ lo) (hhi : 0 ≤ hi) :
    inIndexRange i lo hi edge = true ↔ lo ≤ i * edge + edge - 1 ∧ (i * edge : Int) ≤ hi := by
  obtain ⟨l, rfl⟩ := Int.eq_ofNat_of_zero_le hlo
  obtain ⟨h, rfl⟩ := Int.eq_ofNat_of_zero_le hhi
  unfold inIndexRange
  simp only [Bool.and_eq_true, decide_eq_true_eq, Int.toNat_natCast, Nat.le_div_iff_mul_le he,
    ← Nat.lt_add_one_iff (m := l / edge), Nat.div_lt_iff_lt_mul he, Nat.add_mul, Nat.one_mul]
  rw [← Nat.cast_mul]
  omega

/-- A box in the bin touches the cells that it intersects (R4, R147). -/
theorem touchesCell_iff_intersects (g : Geometry) {b : Box} (hb : b.wellFormed = true)
    (hin : b.containedIn binVolume = true) (i : Nat) :
    touchesCell g b i = true ↔ b.intersects (cellBox g i) = true := by
  obtain ⟨hxy, hz⟩ := g.edges_pos
  rw [Box.wellFormed_iff] at hb
  rw [Box.containedIn_iff, binVolume_eq] at hin
  dsimp only at hin
  unfold touchesCell
  rw [Box.intersects_iff, Bool.and_eq_true, Bool.and_eq_true, inIndexRange_iff hxy (by omega) (by omega),
    inIndexRange_iff hxy (by omega) (by omega), inIndexRange_iff hz (by omega) (by omega), and_assoc]
  rfl

/-! ### Tiling -/

/-- The box of one point. -/
def Box.point (x y z : Int) : Box := { xlo := x, xhi := x, ylo := y, yhi := y, zlo := z, zhi := z }

theorem Box.point_wellFormed (x y z : Int) : (Box.point x y z).wellFormed = true := by
  simp [Box.wellFormed, Box.point]

theorem Box.point_intersects_iff (x y z : Int) (b : Box) : (Box.point x y z).intersects b = true ↔ b.holds x y z := by
  rw [Box.intersects_iff]
  simp only [Box.point, Box.holds, within]
  omega

theorem Box.point_containedIn_iff (x y z : Int) (b : Box) :
    (Box.point x y z).containedIn b = true ↔ b.holds x y z := by
  rw [Box.containedIn_iff]
  rfl

theorem indexRange_point (x : Int) (edge : Nat) : indexRange x x edge = [x.toNat / edge] := by
  unfold indexRange
  rw [Nat.add_sub_cancel_left]
  rfl

/-- A point touches one cell (R146). -/
theorem touchedCells_point (g : Geometry) (x y z : Int) :
    touchedCells g (Box.point x y z) =
      [cellIndex g (x.toNat / g.edgeXY) (y.toNat / g.edgeXY) (z.toNat / g.edgeZ)] := by
  simp [touchedCells, Box.point, indexRange_point]

/-- Every point of the bin lies in one cell (R145, R146). -/
theorem cells_tile (g : Geometry) {x y z : Int} (h : binVolume.holds x y z) :
    ∃ i, i < 4096 ∧ (cellBox g i).holds x y z ∧ ∀ j, j < 4096 → (cellBox g j).holds x y z → j = i := by
  have hin := (Box.point_containedIn_iff x y z binVolume).2 h
  have hcell : ∀ i, (cellBox g i).holds x y z ↔ i ∈ touchedCells g (Box.point x y z) := fun i => by
    rw [mem_touchedCells g hin, touchesCell_iff_intersects g (Box.point_wellFormed x y z) hin,
      Box.point_intersects_iff]
  have hlt := touchedCells_lt g hin
  simp only [touchedCells_point, List.mem_singleton] at hcell hlt
  exact ⟨_, hlt _ rfl, (hcell _).2 rfl, fun j _ hj => (hcell j).1 hj⟩

/-! ### Groups -/

/-- The list of a canonical map is the map's codes, and holds indices of cells alone (R145). -/
theorem cellCode_listed {s : State} (hs : s.MapCanonical) (i : Nat) (g : Group) :
    (cellCode s.keepOut.cells i = some g ↔ (i, g) ∈ s.keepOut.cells) ∧ ((i, g) ∈ s.keepOut.cells → i < 4096) := by
  obtain ⟨hcode, hbound⟩ := cellCode_eq_some_iff s.keepOut.cells 0 hs i g
  exact ⟨hcode, fun hmem => (hbound hmem).2⟩

/-- A box touches a group where it touches a cell with the group's code (R148). -/
theorem touchesGroup_iff {s : State} (hs : s.MapCanonical) (b : Box) (g : Group) :
    s.keepOut.touchesGroup b g = true ↔
      ∃ i, i < 4096 ∧ cellCode s.keepOut.cells i = some g ∧ touchesCell s.keepOut.geometry b i = true := by
  unfold KeepOut.touchesGroup
  simp only [List.any_eq_true, Bool.and_eq_true, beq_iff_eq]
  constructor
  · rintro ⟨⟨i, h⟩, hmem, rfl, htouch⟩
    obtain ⟨hcode, hbound⟩ := cellCode_listed hs i h
    exact ⟨i, hbound hmem, hcode.2 hmem, htouch⟩
  · rintro ⟨i, -, hcode, htouch⟩
    obtain ⟨hlisted, -⟩ := cellCode_listed hs i g
    exact ⟨(i, g), hlisted.1 hcode, rfl, htouch⟩

theorem mem_activeGroupsTouched (s : State) (b : Box) (g : Group) :
    g ∈ s.activeGroupsTouched b ↔ s.groupActive g = true ∧ s.keepOut.touchesGroup b g = true := by
  simp [State.activeGroupsTouched]

/-- A bin part intrudes where the verdict of a report with it would (R114). -/
theorem partIntrudes_iff (s : State) (part : Option Box) :
    s.partIntrudes part = true ↔
      ∃ b g, part = some b ∧ s.groupActive g = true ∧ s.keepOut.touchesGroup b g = true :=
  formVerdict_intrusion_iff s .a part 0 0

theorem partTouches_iff (s : State) (part : Option Box) (g : Group) :
    s.partTouches part g = true ↔ ∃ b, part = some b ∧ s.keepOut.touchesGroup b g = true := by
  cases part <;> simp [State.partTouches]

/-- Settles O10: a cell is a box, and touching it is intersecting it. -/
theorem cellsTileTheBin : Obligations.CellsTileTheBin := by
  refine ⟨rfl, fun s i g hs => (cellCode_listed hs i g).1, fun s b g hs => touchesGroup_iff hs b g,
    mem_activeGroupsTouched, partIntrudes_iff, partTouches_iff, fun g x y z h => cells_tile g h,
    fun g b i hb hin hi => ⟨cellBox_inBin g hi, ?_, mem_touchedCells g hin i⟩⟩
  rw [touchesCell_iff_intersects g hb hin, Box.intersects_iff_shared_point hb (cellBox_wellFormed g i)]

end Sys2Proof.Machine
end

section
/-! PROOFS. What an accepted REPORT does to its arm's guard controller: the return from LOST, and then the hand-off of
the verdict, arm state by arm state (R101, R116, R127, R132, R135, R140): O21. -/

namespace Sys2Proof.Machine

section
variable {s : State} {p : Arm}

/-! ### The return from LOST -/

theorem returnFromLost_of_not_lost (h : s.armState p ≠ .lost) : s.returnFromLost p = s := if_neg h

/-- A LOST arm enters STOPPED with ESTOP added while the e-stop is active (R135). -/
theorem guard_returnFromLost_lost (h : s.armState p = .lost) :
    (s.returnFromLost p).guard p =
      { s.guard p with
        state := .stopped, causes := { (s.guard p).causes with estop := (s.guard p).causes.estop || s.estopActive }
        reportTimer := some s.reportMs } := by
  have hlost : (s.guard p).state = .lost := h
  have hcauses : (if s.estopActive = true then (s.guard p).causes.add .estop else (s.guard p).causes) =
      { (s.guard p).causes with estop := (s.guard p).causes.estop || s.estopActive } := by
    cases s.estopActive <;> simp [CauseSet.add]
  unfold State.returnFromLost
  simp only [hlost, if_true, State.flagStop_guard, State.clearFresh_guard, State.guard_setGuard_self, hcauses]

theorem sticky_returnFromLost_lost (h : s.armState p = .lost) :
    (s.returnFromLost p).events.sticky = { s.events.sticky with stop := s.events.sticky.stop.set p true } := by
  have hlost : (s.guard p).state = .lost := h
  unfold State.returnFromLost
  simp only [hlost, if_true]
  rfl

theorem guard_returnFromLost_other (s : State) (p : Arm) : (s.returnFromLost p).guard p.other = s.guard p.other := by
  unfold State.returnFromLost
  dsimp only
  split
  · simp [State.guard_setGuard]
  · rfl

/-! ### The hand-off of a verdict -/

section
variable (v : Verdict)

theorem takeVerdict_of_detached (h : s.armState p = .detached) : s.takeVerdict p v = s := by
  unfold State.takeVerdict
  rw [h]

theorem takeVerdict_of_stopped (h : s.armState p = .stopped) :
    s.takeVerdict p v = (s.startReportTimer p).resumeCheck p := by
  unfold State.takeVerdict
  rw [h]

theorem takeVerdict_of_run (h : s.armState p = .run) :
    s.takeVerdict p v =
      if v.causes.isEmpty = true then s.startReportTimer p else (s.startReportTimer p).enterStopped p v.causes := by
  unfold State.takeVerdict
  rw [h]

end

theorem guard_startReportTimer (s : State) (p : Arm) :
    (s.startReportTimer p).guard p = { s.guard p with reportTimer := some s.reportMs } :=
  State.guard_setGuard_self s p _

theorem guard_startReportTimer_other (s : State) (p : Arm) :
    (s.startReportTimer p).guard p.other = s.guard p.other :=
  PerArm.get_set_other _ _ _

/-- An arm that a verdict stops takes the verdict's causes (R126, R127). -/
theorem guard_enterStopped (s : State) (p : Arm) (v : Verdict) :
    (s.enterStopped p v.causes).guard p =
      { state := .stopped
        causes :=
          { (s.guard p).causes with
            envelope := (s.guard p).causes.envelope || v.place == .escaped
            intrusion := (s.guard p).causes.intrusion || v.intrusion
            overspeed := (s.guard p).causes.overspeed || v.overspeed }
        resumeRequested := false, stopAcknowledged := false, reportTimer := (s.guard p).reportTimer } := by
  unfold State.enterStopped
  simp only [State.flagStop_guard, State.clearFresh_guard, State.guard_setGuard_self, CauseSet.addAll_verdict]

theorem guard_takeVerdict_other (s : State) (p : Arm) (v : Verdict) :
    (s.takeVerdict p v).guard p.other = s.guard p.other := by
  have htimer := guard_startReportTimer_other s p
  cases h : s.armState p with
  | detached => rw [takeVerdict_of_detached v h]
  | lost => unfold State.takeVerdict; rw [h]
  | stopped =>
    obtain ⟨hother, -⟩ := frame_resumeCheck (s.startReportTimer p) p
    rw [takeVerdict_of_stopped v h, hother, htimer]
  | run =>
    rw [takeVerdict_of_run v h]
    split
    · exact htimer
    · exact (PerArm.get_set_other _ _ _).trans htimer

/-- In STOPPED the report timer starts again, and no cause joins; a complete handshake is an occasion for the resume
check (R127, R132, R140). -/
theorem guard_takeVerdict_stopped (v : Verdict) (h : s.armState p = .stopped) :
    let ready := (s.guard p).resumeRequested = true ∧ (s.guard p).stopAcknowledged = true ∧ MayResume s p
    (ready → (s.takeVerdict p v).guard p = { (s.guard p).resumed with reportTimer := some s.reportMs }) ∧
      (¬ ready → (s.takeVerdict p v).guard p = { s.guard p with reportTimer := some s.reportMs }) := by
  have hstate : (s.startReportTimer p).armState p = .stopped :=
    (congrArg Guard.state (guard_startReportTimer s p)).trans h
  have hmay : MayResume (s.startReportTimer p) p ↔ MayResume s p := mayResume_congr rfl rfl
  obtain ⟨hready, hnot⟩ := guard_resumeCheck (s.startReportTimer p) p
  rw [hstate, guard_startReportTimer, hmay] at hready hnot
  rw [takeVerdict_of_stopped v h]
  exact ⟨fun ⟨hr, ha, hm⟩ => hready ⟨rfl, hr, ha, hm⟩,
    fun hno => (congrArg (·.guard p) (hnot fun ⟨_, hall⟩ => hno hall)).trans (guard_startReportTimer s p)⟩

theorem sticky_resumeCheck (s : State) (p : Arm) : (s.resumeCheck p).events.sticky = s.events.sticky := by
  obtain ⟨-, hframe⟩ := frame_resumeCheck s p
  have hevents := congrArg (·.events.sticky) hframe
  exact hevents

/-- A hand-off sets STOP_P where it stops the arm (R126), and no other sticky flag. -/
theorem sticky_takeVerdict (s : State) (p : Arm) (v : Verdict) :
    (s.takeVerdict p v).events.sticky =
      if s.armState p = .run ∧ v.causes.isEmpty = false then
        { s.events.sticky with stop := s.events.sticky.stop.set p true }
      else s.events.sticky := by
  cases h : s.armState p with
  | detached => rw [takeVerdict_of_detached v h]; rfl
  | lost => unfold State.takeVerdict; rw [h]; rfl
  | stopped => rw [takeVerdict_of_stopped v h, sticky_resumeCheck]; rfl
  | run =>
    rw [takeVerdict_of_run v h]
    cases v.causes.isEmpty <;> rfl

/-! ### A report up to the hand-off -/

section
variable (request : ProfileName) (e : Envelope)

/-- Behind a report the resume check asks for an inactive e-stop and for a verdict with no failing part: the report
itself is the fresh one (R117, R139). -/
theorem mayResume_recorded (s : State) (p : Arm) :
    MayResume ((s.returnFromLost p).recordReport p request e) p ↔
      s.estopActive = false ∧ e.last.verdict.causes.isEmpty = true := by
  have hestop : ((s.returnFromLost p).recordReport p request e).estopActive = s.estopActive :=
    State.estopActive_congr (returnFromLost_frame s p).lines
  have hplace : e.last.verdict.place ≠ .escaped ↔
      e.last.verdict.place = .outside ∨ e.last.verdict.place = .contained := by
    cases e.last.verdict.place <;> simp
  unfold MayResume
  rw [hestop, Verdict.causes_isEmpty, hplace, State.recordReport, State.record_setRecord_self]
  simp only [true_and, Option.some.injEq, exists_eq_left']

theorem reportMs_recorded (s : State) (p : Arm) :
    ((s.returnFromLost p).recordReport p request e).reportMs = s.reportMs :=
  reportMs_congr (returnFromLost_frame s p).timing

theorem guard_handedOff_other (s : State) (p : Arm) :
    (s.handedOff p request e).guard p.other = s.guard p.other :=
  (guard_takeVerdict_other _ p _).trans (guard_returnFromLost_other s p)

theorem guard_handedOff_detached (h : s.armState p = .detached) : (s.handedOff p request e).guard p = s.guard p := by
  have hrecorded : (s.recordReport p request e).armState p = .detached := h
  unfold State.handedOff
  rw [returnFromLost_of_not_lost (by rw [h]; decide), takeVerdict_of_detached _ hrecorded]
  rfl

theorem guard_handedOff_run (h : s.armState p = .run) :
    (e.last.verdict.causes.isEmpty = true →
      (s.handedOff p request e).guard p = { s.guard p with reportTimer := some s.reportMs }) ∧
    (e.last.verdict.causes.isEmpty = false →
      (s.handedOff p request e).guard p =
        { state := .stopped
          causes :=
            { (s.guard p).causes with
              envelope := (s.guard p).causes.envelope || e.last.verdict.place == .escaped
              intrusion := (s.guard p).causes.intrusion || e.last.verdict.intrusion
              overspeed := (s.guard p).causes.overspeed || e.last.verdict.overspeed }
          resumeRequested := false, stopAcknowledged := false, reportTimer := some s.reportMs }) := by
  have htimer : ((s.recordReport p request e).startReportTimer p).guard p =
      { s.guard p with reportTimer := some s.reportMs } := guard_startReportTimer _ p
  have hrecorded : (s.recordReport p request e).armState p = .run := h
  unfold State.handedOff
  rw [returnFromLost_of_not_lost (by rw [h]; decide), takeVerdict_of_run _ hrecorded]
  refine ⟨fun hnone => ?_, fun hstops => ?_⟩
  · rw [if_pos hnone, htimer]
  · rw [if_neg (by rw [hstops]; decide), guard_enterStopped, htimer]

theorem guard_handedOff_stopped (h : s.armState p = .stopped) :
    let ready := (s.guard p).resumeRequested = true ∧ (s.guard p).stopAcknowledged = true ∧ s.estopActive = false ∧
      e.last.verdict.causes.isEmpty = true
    (ready → (s.handedOff p request e).guard p = { (s.guard p).resumed with reportTimer := some s.reportMs }) ∧
      (¬ ready → (s.handedOff p request e).guard p = { s.guard p with reportTimer := some s.reportMs }) := by
  have hsame := returnFromLost_of_not_lost (s := s) (p := p) (by rw [h]; decide)
  have hmay := mayResume_recorded request e s p
  have htaken := guard_takeVerdict_stopped (s := (s.returnFromLost p).recordReport p request e) e.last.verdict
    (by rw [hsame]; exact h)
  rw [hmay, hsame] at htaken
  unfold State.handedOff
  rw [hsame]
  exact htaken

/-- A LOST arm enters STOPPED, where its handshake is not complete: LOST holds neither flag (R122, R135). -/
theorem guard_handedOff_lost (h : s.armState p = .lost) (hfits : (s.guard p).Fits) :
    (s.handedOff p request e).guard p =
      { s.guard p with
        state := .stopped, causes := { (s.guard p).causes with estop := (s.guard p).causes.estop || s.estopActive }
        reportTimer := some s.reportMs } := by
  have hlost : (s.guard p).state = .lost := h
  have hflag : (s.guard p).resumeRequested = false := by
    unfold Guard.Fits at hfits
    rw [hlost] at hfits
    obtain ⟨-, hrequested, -⟩ := hfits
    exact hrequested
  have hguard : ((s.returnFromLost p).recordReport p request e).guard p = _ := guard_returnFromLost_lost h
  have hstopped : ((s.returnFromLost p).recordReport p request e).armState p = .stopped := congrArg Guard.state hguard
  obtain ⟨-, hnot⟩ := guard_takeVerdict_stopped e.last.verdict hstopped
  unfold State.handedOff
  rw [hnot (by rw [hguard, hflag]; exact fun ⟨hr, _⟩ => nomatch hr), hguard, reportMs_recorded]

theorem sticky_handedOff (s : State) (p : Arm) :
    (s.handedOff p request e).events.sticky =
      if s.armState p = .lost ∨ s.armState p = .run ∧ e.last.verdict.causes.isEmpty = false then
        { s.events.sticky with stop := s.events.sticky.stop.set p true }
      else s.events.sticky := by
  have hrun : ((s.returnFromLost p).recordReport p request e).armState p = .run ↔ s.armState p = .run :=
    armState_returnFromLost_run s p
  have hsticky : ((s.returnFromLost p).recordReport p request e).events.sticky =
      (s.returnFromLost p).events.sticky := rfl
  unfold State.handedOff
  simp only [sticky_takeVerdict, hrun, hsticky]
  by_cases h : s.armState p = .lost
  · rw [if_neg (by rw [h]; exact fun ⟨hr, _⟩ => nomatch hr), if_pos (.inl h), sticky_returnFromLost_lost h]
  · simp only [returnFromLost_of_not_lost h, h, false_or]

end

/-! ### The whole report -/

/-- Retirements set no sticky flag but NOTICE_LOST (R182). -/
theorem sticky_retireAndRescreen {s : State} {ks : List (Fin 24)} (n : Option NoticeKind) (r : Bool)
    (hks : s.Retirable ks) : (s.retireAndRescreen ks n r).events.sticky.quietOf = s.events.sticky.quietOf := by
  unfold State.retireAndRescreen
  split
  · rfl
  · obtain ⟨-, -, hwalk, -⟩ := rescreenFrom_frame (s.retireAll ks n r).waitList [] (s.retireAll ks n r)
    exact hwalk.trans (sticky_retireAll ks n r s hks)

section
variable (s : State) (p : Arm) (request : ProfileName) (xa ya za : Int) (speed : Nat)

/-- Entry and exit marking reach no guard controller (R87). -/
theorem guard_reportOwner (q : Arm) :
    (reportOwner p request xa ya za speed s).state.guard q =
      (s.handedOff p request (s.envelope p request xa ya za speed)).guard q := by
  rw [reportOwner_state, State.markExit, (retireAndRescreen_frame _ _ _ _).guard, State.markEntry,
    State.mapBodies_guard]

theorem sticky_reportOwner :
    (reportOwner p request xa ya za speed s).state.events.sticky.quietOf =
      (s.handedOff p request (s.envelope p request xa ya za speed)).events.sticky.quietOf := by
  rw [reportOwner_state, State.markExit, sticky_retireAndRescreen _ _ (exits_retirable _ p _), State.markEntry,
    State.mapBodies_events]

end

end

/-- Settles O21: the record that the hand-off leaves in each arm state, which entry and exit marking leave as it is. -/
theorem reportReachesGuard : Obligations.ReportReachesGuard := by
  refine ⟨by decide, fun _ => rfl, fun p arg xa ya za v s hr hm hfits => ?_⟩
  have hexec := exec_report hr hm p arg xa ya za v
  have hlast := reportOwner_last s p (requestOf arg) xa.toInt ya.toInt za.toInt v.toNat
  have hguard := guard_reportOwner s p (requestOf arg) xa.toInt ya.toInt za.toInt v.toNat
  have hsticky := sticky_reportOwner s p (requestOf arg) xa.toInt ya.toInt za.toInt v.toNat
  generalize s.envelope p (requestOf arg) xa.toInt ya.toInt za.toInt v.toNat = e at *
  generalize (reportOwner p (requestOf arg) xa.toInt ya.toInt za.toInt v.toNat s).state = u at *
  refine ⟨u.replyArm p 0x03 .ok (.report e.last.verdict e.d), e.last, hexec, hlast, ?_⟩
  intro g timer c stops
  have hstops : e.last.verdict.causes.isEmpty = false ↔ stops := Verdict.causes_nonempty_iff e.last.verdict
  have hclear : e.last.verdict.causes.isEmpty = true ↔ ¬ stops := by rw [← hstops, Bool.not_eq_false]
  simp only [State.replyArm_guard, State.replyArm_events]
  refine ⟨?_, fun h => ?_, fun h hno => ?_, fun h hyes => ?_, fun h hready => ?_, fun h hnot => ?_, fun h => ?_, ?_⟩
  · exact (hguard p.other).trans (guard_handedOff_other (requestOf arg) e s p)
  · exact (hguard p).trans (guard_handedOff_detached (requestOf arg) e h)
  · obtain ⟨hrun, -⟩ := guard_handedOff_run (requestOf arg) e h
    exact (hguard p).trans (hrun (hclear.2 hno))
  · obtain ⟨-, hstopped⟩ := guard_handedOff_run (requestOf arg) e h
    exact (hguard p).trans (hstopped (hstops.2 hyes))
  · obtain ⟨hresumed, -⟩ := guard_handedOff_stopped (requestOf arg) e h
    rw [hclear] at hresumed
    exact (hguard p).trans (hresumed hready)
  · obtain ⟨-, hstays⟩ := guard_handedOff_stopped (requestOf arg) e h
    rw [hclear] at hstays
    exact (hguard p).trans (hstays hnot)
  · exact (hguard p).trans (guard_handedOff_lost (requestOf arg) e h hfits)
  · have hset : (s.armState p = .lost ∨ s.armState p = .run ∧ e.last.verdict.causes.isEmpty = false) ↔
        (g.state = .lost ∨ g.state = .run ∧ stops) := or_congr Iff.rfl (and_congr Iff.rfl hstops)
    rw [hsticky, sticky_handedOff]
    by_cases hflag : g.state = .lost ∨ g.state = .run ∧ stops
    · rw [if_pos (hset.2 hflag), if_pos hflag]
      rfl
    · rw [if_neg (hset.not.2 hflag), if_neg hflag]

end Sys2Proof.Machine
end

section
/-! PROOFS. The permits, the event flags, ALERT and the levels on the output lines (R142, R154, R166, R168, R169, R172,
R198, R199): O51. -/

namespace Sys2Proof.Machine

/-! ### Permits and sources -/

/-- PERMIT_P is high in RUN alone (R142). -/
theorem permitHigh_iff {s : State} (hr : s.inReset = false) (p : Arm) :
    s.permitHigh p = true ↔ s.armState p = .run := by
  unfold State.permitHigh
  rw [hr]
  exact beq_iff_eq

theorem permitHigh_eq_false {s : State} {p : Arm} (h : s.armState p ≠ .run) : s.permitHigh p = false := by
  unfold State.permitHigh
  rw [beq_eq_false_iff_ne.2 h, Bool.and_false]

/-- The e-stop by its lines (R168). -/
theorem estopActive_iff (s : State) :
    s.estopActive = true ↔ ∃ n, (s.line n).func = .estopIn ∧ (s.line n).filtered = true := by
  unfold State.estopActive
  simp

/-- A group's lines (R154). -/
theorem groupLineActive_iff (s : State) (g : Group) :
    s.groupLineActive g = true ↔ ∃ n, (s.line n).func = .guardIn g ∧ (s.line n).filtered = true := by
  unfold State.groupLineActive
  simp

theorem groupActive_iff (s : State) (g : Group) :
    s.groupActive g = true ↔
      s.keepOut.flags.get g = true ∨ ∃ n, (s.line n).func = .guardIn g ∧ (s.line n).filtered = true := by
  unfold State.groupActive
  rw [Bool.or_eq_true, groupLineActive_iff]

theorem anyGroupActive_iff (s : State) : s.anyGroupActive = true ↔ ∃ g, s.groupActive g = true := by
  unfold State.anyGroupActive
  simp

/-! ### Flags and ALERT -/

/-- The flags bit by bit, bit 0 first (R198). -/
theorem getLsbD_flagsWord (s : State) (i : Nat) :
    let f := s.events.sticky
    s.flagsWord.getLsbD i =
      [f.stop.a, f.stop.b, f.lost.a, f.lost.b, f.linkErr.a, f.linkErr.b, f.linkErrCell, f.lapse, f.waitExpired,
       f.revoked, f.noticeLost.a, f.noticeLost.b, s.estopActive, s.anyGroupActive, !s.waitList.isEmpty,
       s.mode == .config].getD i false :=
  BitVec.getLsbD_ofBoolListLE

/-- The two flags that each of four kinds has, one for each arm (R198). -/
theorem armFlags_eq (s : State) (p : Arm) :
    s.flagsWord.getLsbD (armCode p) = s.events.sticky.stop.get p ∧
      s.flagsWord.getLsbD (2 + armCode p) = s.events.sticky.lost.get p ∧
      s.flagsWord.getLsbD (4 + armCode p) = s.events.sticky.linkErr.get p ∧
      s.flagsWord.getLsbD (10 + armCode p) = s.events.sticky.noticeLost.get p := by
  simp only [getLsbD_flagsWord]
  cases p <;> exact ⟨rfl, rfl, rfl, rfl⟩

theorem waitFlag_iff (s : State) : s.flagsWord.getLsbD 14 = true ↔ s.waitList ≠ [] := by
  rw [getLsbD_flagsWord]
  show (!s.waitList.isEmpty) = true ↔ _
  simp

theorem configFlag_iff (s : State) : s.flagsWord.getLsbD 15 = true ↔ s.mode = .config := by
  rw [getLsbD_flagsWord]
  exact beq_iff_eq

/-- Some bit of a word is set outside a mask. -/
theorem and_not_ne_zero_iff {w : Nat} (x m : BitVec w) :
    x &&& ~~~m ≠ 0 ↔ ∃ n, n < w ∧ x.getLsbD n = true ∧ m.getLsbD n = false := by
  constructor
  · intro h
    by_contra hnone
    refine h (BitVec.eq_of_getLsbD_eq fun n hn => ?_)
    simp only [not_exists, not_and, Bool.not_eq_false] at hnone
    simpa [hn] using hnone n hn
  · rintro ⟨n, hn, hx, hm⟩ h
    have hbit : (x &&& ~~~m).getLsbD n = true := by
      rw [BitVec.getLsbD_and, BitVec.getLsbD_not, hx, hm, decide_eq_true hn]
      rfl
    rw [h] at hbit
    simp at hbit

/-- ALERT is low while a flag is set and not masked (R199). -/
theorem alertLow_iff {s : State} (hr : s.inReset = false) :
    s.alertLow = true ↔ ∃ n, n < 16 ∧ s.flagsWord.getLsbD n = true ∧ s.events.mask.getLsbD n = false := by
  unfold State.alertLow
  rw [hr, ← and_not_ne_zero_iff]
  exact bne_iff_ne

/-! ### Output lines -/

theorem isOutput_of_le_code {f : LineFunction} (h : 5 ≤ f.code) : f.isOutput = true := by
  cases f with
  | unused | estopIn => exact absurd h (by decide)
  | guardIn g => cases g <;> exact absurd h (by decide)
  | permitMirror p | waitOut p => rfl
  | alertMirror | generalOut => rfl

/-- The driver of an input line is off (R164). -/
theorem driven_of_input {s : State} {n : Fin 8} (h : (s.line n).func.code ≤ 4) : s.driven n = none := by
  unfold State.driven
  rw [isOutput_of_code_le h, Bool.not_false, Bool.or_true, if_pos rfl]

/-- An output line drives the level of its condition (R166). -/
theorem driven_of_output {s : State} (hr : s.inReset = false) {n : Fin 8} (h : 5 ≤ (s.line n).func.code) :
    s.driven n = some (levelDriven (s.line n).polarity (s.outputActive n)) := by
  unfold State.driven
  rw [hr, isOutput_of_le_code h]
  rfl

theorem levelDriven_eq_ite (pol : Polarity) (active : Bool) :
    levelDriven pol active = if active = decide (pol = .activeHigh) then .high else .low := by
  cases pol <;> cases active <;> rfl

/-- Each output function's condition (R169). -/
theorem outputActive_eq {s : State} {n : Fin 8} {active : Bool}
    (hpermit : ∀ p, (s.line n).func = .permitMirror p → active = s.permitHigh p)
    (halert : (s.line n).func = .alertMirror → active = s.alertLow)
    (hwait : ∀ p, (s.line n).func = .waitOut p → (active = true ↔ ∃ k, s.holdsWaiting p k = true))
    (hout : (s.line n).func = .generalOut → active = (s.line n).out) (h : 5 ≤ (s.line n).func.code) :
    s.outputActive n = active := by
  have houtput := isOutput_of_le_code h
  unfold State.outputActive
  cases hf : (s.line n).func with
  | unused | guardIn | estopIn =>
    rw [hf] at houtput
    cases houtput
  | permitMirror p => exact (hpermit p hf).symm
  | alertMirror => exact (halert hf).symm
  | waitOut p =>
    rw [Bool.eq_iff_iff, hwait p hf]
    simp [State.hasWaiting]
  | generalOut => exact (hout hf).symm

/-- Settles O51: the flags are read off their word, and the line's level off its condition. -/
theorem outputsFollowState : Obligations.OutputsFollowState := by
  intro s hr
  refine ⟨permitHigh_iff hr, armFlags_eq s, getLsbD_flagsWord s 6, getLsbD_flagsWord s 7, getLsbD_flagsWord s 8,
    getLsbD_flagsWord s 9, estopActive_iff s, groupLineActive_iff s, ?_, ?_, waitFlag_iff s, configFlag_iff s,
    groupActive_iff s, alertLow_iff hr, fun n => ⟨driven_of_input, fun active hpermit halert hwait hout hcode => ?_⟩⟩
  · rw [getLsbD_flagsWord]
    exact estopActive_iff s
  · rw [getLsbD_flagsWord]
    exact anyGroupActive_iff s
  · rw [driven_of_output hr hcode, levelDriven_eq_ite, outputActive_eq hpermit halert hwait hout hcode]

end Sys2Proof.Machine
end

section
/-! PROOFS. NOP and the kinds that no link defines, and what the gates of R177 answer to the other arm requests (R134,
R177): O16 and O17. -/

namespace Sys2Proof.Machine

/-! ### The gates -/

section
variable {s : State} (p : Arm) (kind : Byte) (owner : State → Answer)

/-- In CONFIG the owner of an arm request is not asked. -/
theorem takeArmFrame_gate_config (hr : s.inReset = false) (hm : s.mode = .config) :
    takeArmFrame p kind (gateRequest p owner) s = .next (s.replyArm p kind .refusedMode .empty) := by
  rw [takeArmFrame_next hr, gateRequest_config hm]
  rfl

/-- Nor is it asked for a LOST arm. -/
theorem takeArmFrame_gate_lost (hr : s.inReset = false) (hm : s.mode = .run) (hl : s.armState p = .lost) :
    takeArmFrame p kind (gateRequest p owner) s = .next (s.replyArm p kind .refusedState .empty) := by
  rw [takeArmFrame_next hr, gateRequest_lost hm p hl]
  rfl

end

/-- A LOST arm's request is answered REFUSED_STATE by the gate as another arm's is by an owner that refuses it. -/
theorem takeArmFrame_refusedState {s : State} {owner : State → Answer} (hr : s.inReset = false) (hm : s.mode = .run)
    (p : Arm) (kind : Byte) (h : owner s = refuse s .refusedState) :
    takeArmFrame p kind (gateRequest p owner) s = .next (s.replyArm p kind .refusedState .empty) := by
  by_cases hl : s.armState p = .lost
  · exact takeArmFrame_gate_lost p kind owner hr hm hl
  · exact takeArmFrame_gated hr hm hl h kind

/-! ### The requests -/

/-- Settles O16: these frames reach no gate, and their owners change nothing. -/
theorem nopAndUnknownKind : Obligations.NopAndUnknownKind := by
  intro s hr
  exact ⟨fun p => takeArmFrame_next hr p 0x00 fun t => { state := t, result := .ok, data := .empty },
    fun p kind _ => takeArmFrame_next hr p kind fun t => refuse t .unknownKind,
    fun kind _ => takeCellFrame_next hr kind fun t => refuseCell t .unknownKind⟩

/-- In CONFIG a REPORT is refused, although no gate stands in front of its owner (R99). -/
theorem exec_report_config {s : State} (hr : s.inReset = false) (hm : s.mode = .config) (p : Arm) (arg : Byte)
    (xa ya za v : Half) :
    exec (.report p arg xa ya za v) s = .next (s.replyArm p 0x03 .refusedMode .empty) := by
  have hnext := takeArmFrame_next hr p 0x03 fun t => if t.mode = .config then refuse t .refusedMode
    else reportOwner p (requestOf arg) xa.toInt ya.toInt za.toInt v.toNat t
  rw [if_pos hm] at hnext
  exact hnext

/-- Settles O17: the kinds 0x01 to 0x09 are REPORT and the eight requests behind the gates, and every other kind of an
arm link is NOP or lies outside that range. -/
theorem armRequestsTurnedAway : Obligations.ArmRequestsTurnedAway := by
  intro i s p kind rest hr hwf hc hhi hnop
  have hgate (owner : State → Answer) :
      (s.mode = .config →
        takeArmFrame p kind (gateRequest p owner) s = .next (s.replyArm p kind .refusedMode .empty)) ∧
      (s.mode = .run → s.armState p = .lost → kind ≠ 0x03 →
        takeArmFrame p kind (gateRequest p owner) s = .next (s.replyArm p kind .refusedState .empty)) :=
    ⟨takeArmFrame_gate_config p kind owner hr, fun hm hl _ => takeArmFrame_gate_lost p kind owner hr hm hl⟩
  cases i <;> cases hc
  case nop => exact absurd rfl hnop
  case attach => exact hgate _
  case detach => exact hgate _
  case report arg xa ya za v => exact ⟨fun hm => exec_report_config hr hm p arg xa ya za v, fun _ _ h => absurd rfl h⟩
  case claim => exact hgate _
  case release => exact hgate _
  case cancel => exact hgate _
  case query => exact hgate _
  case list => exact hgate _
  case ackstop => exact hgate _
  case unknownKind =>
    have hkind : ¬ kind.toNat ≤ 0x09 := by simpa [Instr.wellFormed, Link.kindDefined] using hwf
    exact absurd hhi hkind

end Sys2Proof.Machine
end

section
/-! PROOFS. ATTACH and DETACH (R123, R124): O18 and O19. -/

namespace Sys2Proof.Machine

/-- An arm reply shows the arm state that the request leaves (R177). -/
theorem statusState_replyArm (s : State) (p : Arm) (kind : Byte) (r : Result) (d : ArmData) :
    ((s.replyArm p kind r d).link p).reply.status.state = s.armState p := by
  rw [reply_replyArm]
  rfl

/-! ### ATTACH -/

/-- ATTACH's checks 3 to 6 (R123). -/
theorem attachFits_iff (s : State) (p : Arm) :
    s.attachFits p = true ↔ (s.record p).fresh = true ∧ s.estopActive = false ∧
      ∃ l, (s.record p).last = some l ∧ l.verdict.place = .outside ∧ l.verdict.overspeed = false := by
  unfold State.attachFits
  cases (s.record p).last with
  | none => simp
  | some l => simp [and_assoc, and_left_comm, and_comm]

theorem attachOwner_attached {s : State} {p : Arm} (h : s.armState p ≠ .detached) :
    attachOwner p s = refuse s .refusedState := if_pos h

theorem attachOwner_unfit {s : State} {p : Arm} (h : s.armState p = .detached) (hf : s.attachFits p = false) :
    attachOwner p s = refuse s .notReady := by
  unfold attachOwner
  rw [if_neg (not_not.2 h), hf]
  rfl

theorem attachOwner_fit {s : State} {p : Arm} (h : s.armState p = .detached) (hf : s.attachFits p = true) :
    attachOwner p s =
      { state := s.setGuard p { s.guard p with state := .run, reportTimer := some s.reportMs }
        result := .ok, data := .empty } := by
  unfold attachOwner
  rw [if_neg (not_not.2 h), hf]
  rfl

/-- Settles O18: the gate's answer, and the owner's by the arm state and the checks behind it. -/
theorem attachEntersRun : Obligations.AttachEntersRun := by
  intro p s hr
  refine ⟨takeArmFrame_gate_config p 0x01 (attachOwner p) hr, fun hm => ⟨
    fun l hdet hfresh hl hplace hspeed hestop => ?_,
    fun hatt => takeArmFrame_refusedState hr hm p 0x01 (attachOwner_attached hatt), fun hdet hfails => ?_⟩⟩
  · have hfits : s.attachFits p = true := (attachFits_iff s p).2 ⟨hfresh, hestop, l, hl, hplace, hspeed⟩
    refine ⟨takeArmFrame_gated hr hm (by rw [hdet]; decide) (attachOwner_fit hdet hfits) 0x01,
      (permitHigh_iff ?_ p).2 ?_, ?_⟩
    · exact hr
    · rw [State.replyArm_armState, State.armState_setGuard, if_pos rfl]
    · rw [statusState_replyArm, State.armState_setGuard, if_pos rfl]
  · have hunfit : s.attachFits p = false := by
      rw [← Bool.not_eq_true, attachFits_iff]
      rintro ⟨hfresh, hestop, l, hl, hplace, hspeed⟩
      rcases hfails with h | h | h | ⟨k, hk, h⟩
      · rw [h] at hfresh; cases hfresh
      · rw [h] at hl; cases hl
      · rw [h] at hestop; cases hestop
      · obtain rfl : k = l := Option.some.inj (hk.symm.trans hl)
        exact h.elim (absurd hplace) fun h => by rw [h] at hspeed; cases hspeed
    exact takeArmFrame_gated hr hm (by rw [hdet]; decide) (attachOwner_unfit hdet hunfit) 0x01

/-! ### DETACH -/

theorem detachOwner_refused {s : State} {p : Arm} (h : s.armState p ≠ .run ∨ s.countOf p ≠ 0) :
    detachOwner p s = refuse s .refusedState := by
  unfold detachOwner
  by_cases hrun : s.armState p = .run
  · rw [if_neg (not_not.2 hrun), if_pos (h.resolve_left (not_not.2 hrun))]
  · rw [if_pos hrun]

theorem detachOwner_ok {s : State} {p : Arm} (h : s.armState p = .run) (hnone : s.countOf p = 0) :
    detachOwner p s =
      { state := (s.setGuard p { s.guard p with state := .detached, reportTimer := none }).setRecord p
          { s.record p with fresh := false }
        result := .ok, data := .empty } := by
  unfold detachOwner
  rw [if_neg (not_not.2 h), if_neg (not_not.2 hnone)]
  rfl

/-- Settles O19: the gate's answer, and the owner's by the arm state and the arm's claims. -/
theorem detachLeavesRun : Obligations.DetachLeavesRun := by
  intro p s hr
  refine ⟨takeArmFrame_gate_config p 0x02 (detachOwner p) hr, fun hm => ⟨fun hrun hnone => ?_,
    fun h => takeArmFrame_refusedState hr hm p 0x02 (detachOwner_refused h)⟩⟩
  refine ⟨takeArmFrame_gated hr hm (by rw [hrun]; decide) (detachOwner_ok hrun hnone) 0x02, permitHigh_eq_false ?_, ?_⟩
  · rw [State.replyArm_armState, State.setRecord_armState, State.armState_setGuard, if_pos rfl]
    nofun
  · rw [statusState_replyArm, State.setRecord_armState, State.armState_setGuard, if_pos rfl]

end Sys2Proof.Machine
end

section
/-! PROOFS. STOP, and the two acts of the resume handshake with the resume that the second completes (R126, R129, R131,
R137 to R139): O40 and O28. -/

namespace Sys2Proof.Machine

/-! ### STOP -/

theorem stopOwner_named {s : State} {arm : Byte} {p : Arm} (harm : arm.toNat = armCode p)
    (h : s.armState p = .run ∨ s.armState p = .stopped) : stopOwner arm s = okCell (s.stopArm p .supervisor) := by
  unfold stopOwner
  rw [(armOf_eq_some arm p).2 harm]
  rcases h with h | h <;> simp only [h]

theorem stopOwner_refused {s : State} {arm : Byte} {p : Arm} (harm : arm.toNat = armCode p)
    (h : s.armState p = .detached ∨ s.armState p = .lost) : stopOwner arm s = refuseCell s .refusedState := by
  unfold stopOwner
  rw [(armOf_eq_some arm p).2 harm]
  rcases h with h | h <;> simp only [h]

/-- A stop event in RUN is the entry to STOPPED with its one cause (R126). -/
theorem stopArm_run {s : State} {p : Arm} (h : s.armState p = .run) (c : StopCause) :
    s.stopArm p c = s.enterStopped p [c] := by
  unfold State.stopArm
  rw [h]

theorem stopArm_stopped {s : State} {p : Arm} (h : s.armState p = .stopped) (c : StopCause) :
    s.stopArm p c = s.stopEvent p c := by
  unfold State.stopArm
  rw [h]

theorem exec_stop {s : State} {arm : Byte} {a : CellAnswer} (hr : s.inReset = false) (ha : stopOwner arm s = a) :
    exec (.stop arm) s = .next (a.state.replyCell 0x0E a.result a.clamped a.data) := by
  rw [← ha]
  exact takeCellFrame_next hr 0x0E (stopOwner arm)

/-- A STOPPED arm keeps its state through a further stop event (R131). -/
theorem stopEvent_stopped {s : State} {p : Arm} (h : s.armState p = .stopped) :
    s.stopEvent p .supervisor = s.setGuard p
      { s.guard p with
        state := .stopped, causes := { (s.guard p).causes with supervisor := true }
        resumeRequested := false, stopAcknowledged := false } := by
  have hstate : (s.guard p).state = .stopped := h
  rw [← hstate]
  rfl

/-- Settles O40: the owner's answer by the arm state, and the stop event that it takes. -/
theorem stopHoldsArm : Obligations.StopHoldsArm := by
  intro p arm s hr held
  refine ⟨fun hbad => ?_, fun harm => ⟨fun hrun => ?_, fun hstopped => ?_,
    fun h => exec_stop hr (stopOwner_refused harm h)⟩⟩
  · exact exec_stop hr (a := refuseCell s .badArg) (by unfold stopOwner; rw [armOf_eq_none hbad])
  · refine (exec_stop hr (stopOwner_named harm (.inl hrun))).trans ?_
    rw [stopArm_run hrun]
    rfl
  · refine (exec_stop hr (stopOwner_named harm (.inr hstopped))).trans ?_
    rw [stopArm_stopped hstopped, stopEvent_stopped hstopped]
    rfl

/-! ### The resume check behind an act -/

theorem setGuard_setGuard (s : State) (p : Arm) (g h : Guard) : (s.setGuard p g).setGuard p h = s.setGuard p h := by
  unfold State.setGuard
  rw [PerArm.set_set]

section
variable {s : State} {p : Arm} {g : Guard}

/-- The act that completes the handshake completes the resume where the conditions hold (R139). -/
theorem resumeCheck_setGuard_ready (hstate : g.state = .stopped) (hreq : g.resumeRequested = true)
    (hack : g.stopAcknowledged = true) (hmay : MayResume s p) :
    (s.setGuard p g).resumeCheck p = s.setGuard p g.resumed := by
  have hfits : (s.setGuard p g).resumeFits p = true := (resumeFits_iff s p).2 hmay
  unfold State.resumeCheck State.completeResume
  simp only [State.guard_setGuard_self]
  rw [if_pos ⟨hstate, hreq, hack, hfits⟩, setGuard_setGuard]
  rfl

/-- An act that leaves the handshake incomplete, or the conditions unmet, sets its own flag and no more (R139). -/
theorem resumeCheck_setGuard_unready
    (h : ¬ (g.resumeRequested = true ∧ g.stopAcknowledged = true ∧ MayResume s p)) :
    (s.setGuard p g).resumeCheck p = s.setGuard p g := by
  obtain ⟨-, hnot⟩ := guard_resumeCheck (s.setGuard p g) p
  refine hnot fun ⟨_, hreq, hack, hmay⟩ => h ?_
  rw [State.guard_setGuard_self] at hreq hack
  exact ⟨hreq, hack, (mayResume_congr rfl rfl).1 hmay⟩

end

/-! ### ACKSTOP and RESUME -/

theorem ackstopOwner_refused {s : State} {p : Arm} (h : s.armState p ≠ .stopped) :
    ackstopOwner p s = refuse s .refusedState := if_pos h

/-- ACKSTOP of a STOPPED arm sets stop-acknowledged, and the resume check follows (R138). -/
theorem exec_ackstop_stopped {s u : State} {p : Arm} (hr : s.inReset = false) (hm : s.mode = .run)
    (h : s.armState p = .stopped) (hu : (s.setGuard p { s.guard p with stopAcknowledged := true }).resumeCheck p = u) :
    exec (.ackstop p) s = .next (u.replyArm p 0x09 .ok .empty) := by
  rw [← hu]
  exact takeArmFrame_gated (owner := ackstopOwner p) hr hm (by rw [h]; decide) (if_neg (not_not.2 h)) 0x09

theorem resumeOwner_named {s : State} {arm : Byte} {p : Arm} (harm : arm.toNat = armCode p) :
    resumeOwner arm s =
      if s.armState p = .stopped then okCell ((s.setGuard p { s.guard p with resumeRequested := true }).resumeCheck p)
      else refuseCell s .refusedState := by
  unfold resumeOwner
  rw [(armOf_eq_some arm p).2 harm]

theorem exec_resume {s : State} {arm : Byte} {a : CellAnswer} (hr : s.inReset = false) (ha : resumeOwner arm s = a) :
    exec (.resume arm) s = .next (a.state.replyCell 0x0F a.result a.clamped a.data) := by
  rw [← ha]
  exact takeCellFrame_next hr 0x0F (resumeOwner arm)

/-- RESUME of a STOPPED arm sets resume-requested, and the resume check follows (R137). -/
theorem exec_resume_stopped {s u : State} {arm : Byte} {p : Arm} (hr : s.inReset = false)
    (harm : arm.toNat = armCode p) (h : s.armState p = .stopped)
    (hu : (s.setGuard p { s.guard p with resumeRequested := true }).resumeCheck p = u) :
    exec (.resume arm) s = .next (u.replyCell 0x0F .ok false .empty) := by
  rw [← hu]
  exact exec_resume hr ((resumeOwner_named harm).trans (if_pos h))

/-- Settles O28: each act sets its own flag, and the resume check behind it finds the handshake complete or not. -/
theorem resumeHandshake : Obligations.ResumeHandshake := by
  refine ⟨rfl, fun p s hr => ⟨fun hm hstopped => ⟨fun hreq hmay => ?_, fun hopen => ?_⟩,
    fun hm h => takeArmFrame_refusedState hr hm p 0x09 (ackstopOwner_refused h), fun arm => ⟨fun hbad => ?_,
      fun harm => ⟨fun h => ?_, fun hstopped hack hmay => ?_, fun hstopped hopen => ?_⟩⟩⟩⟩
  · exact exec_ackstop_stopped hr hm hstopped (resumeCheck_setGuard_ready hstopped hreq rfl hmay)
  · exact exec_ackstop_stopped hr hm hstopped (resumeCheck_setGuard_unready fun ⟨hreq, _, hmay⟩ => hopen ⟨hreq, hmay⟩)
  · exact exec_resume hr (a := refuseCell s .badArg) (by unfold resumeOwner; rw [armOf_eq_none hbad])
  · exact exec_resume hr ((resumeOwner_named harm).trans (if_neg h))
  · exact exec_resume_stopped hr harm hstopped (resumeCheck_setGuard_ready hstopped rfl hack hmay)
  · exact exec_resume_stopped hr harm hstopped (resumeCheck_setGuard_unready fun ⟨_, hack, hmay⟩ => hopen ⟨hack, hmay⟩)

end Sys2Proof.Machine
end

section
/-! PROOFS. What a change of an ESTOP_IN line's filtered level does to the arms (R128, R140, R168): O49. -/

namespace Sys2Proof.Machine

/-! ### A stop event for both arms -/

/-- A stop event that reaches both arms, A first. -/
def State.stopArms (s : State) (c : StopCause) : State := (s.stopArm .a c).stopArm .b c

section
variable (s : State) (c : StopCause)

/-- The stop event of one arm is not seen by the other. -/
theorem armState_stopArm_a : (s.stopArm .a c).armState .b = s.armState .b := by
  unfold State.armState
  rw [guard_stopArm, if_neg fun h => nomatch h.1]

theorem guard_stopArms (p : Arm) :
    (s.stopArms c).guard p =
      if s.armState p = .run ∨ s.armState p = .stopped then (s.guard p).stoppedBy c else s.guard p := by
  unfold State.stopArms
  rw [guard_stopArm, armState_stopArm_a, guard_stopArm, guard_stopArm]
  cases p <;> simp

theorem record_stopArms (p : Arm) :
    (s.stopArms c).record p =
      { s.record p with fresh := (s.record p).fresh && !decide (s.armState p = .run) } := by
  unfold State.stopArms
  rw [record_stopArm, record_stopArm, armState_stopArm_a]
  cases p <;> simp

theorem events_stopArms :
    (s.stopArms c).events = { s.events with sticky := { s.events.sticky with stop :=
      { a := s.events.sticky.stop.a || decide (s.armState .a = .run)
        b := s.events.sticky.stop.b || decide (s.armState .b = .run) } } } := by
  unfold State.stopArms
  rw [events_stopArm, events_stopArm, armState_stopArm_a]
  rfl

theorem frame_stopArms :
    { (s.stopArms c) with guards := s.guards, records := s.records, events := s.events } = s := by
  have ha := frame_stopArm s .a c
  have hb := congrArg (fun u : State => { u with guards := s.guards, records := s.records, events := s.events })
    (frame_stopArm (s.stopArm .a c) .b c)
  exact hb.trans ha

end

/-! ### An ESTOP_IN line -/

/-- A change of an ESTOP_IN line's filtered level is no change of a group's activity (R154, R168). -/
theorem FilteredChange.groupActive_of_estopIn {s s0 : State} {n : Fin 8} {i : Instr}
    (hfunc : (s.line n).func = .estopIn) (h : FilteredChange s n i s0) (g : Group) :
    s0.groupActive g = s.groupActive g := by
  obtain ⟨l, hl, rfl⟩ := h.setLine
  have hne : (s.line n).func ≠ .guardIn g := by rw [hfunc]; nofun
  simp only [State.groupActive, State.groupLineActive, State.setLine_keepOut, sourceLine_other hl hne]

/-- Settles O49: the change has the event of the e-stop alone, which is none, a stop event for both arms, or both resume
checks. -/
theorem estopStopsAndReleases : Obligations.EstopStopsAndReleases := by
  intro n s i s0 hr hfunc hchange
  obtain ⟨change, rfl, hexec⟩ := filteredChange_next hr hchange
  rw [afterSources_estop (hchange.groupActive_of_estopIn hfunc)] at hexec
  obtain ⟨l, -, hline⟩ := hchange.setLine
  generalize change s = s0 at hexec hline ⊢
  have hguard p : s0.guard p = s.guard p := by rw [hline, State.setLine_guard]
  have harm p : s0.armState p = s.armState p := by rw [hline, State.setLine_armState]
  have hrecord p : s0.record p = s.record p := by rw [hline, State.setLine_record]
  have hevents : s0.events = s.events := by rw [hline, State.setLine_events]
  refine ⟨fun hsame => ?_, fun hoff hon => ⟨s0.stopArms .estop, ?_, ?_, fun p => ?_, fun p => ?_, ?_, ?_⟩,
    fun hon hoff => ⟨(s0.resumeCheck .a).resumeCheck .b, ?_, rechecked_resumeChecks s0, frame_resumeChecks s0⟩⟩
  · rwa [estopEvent_same hsame.symm] at hexec
  · rwa [hoff, estopEvent_rise hon] at hexec
  · have hlines := congrArg State.lines (frame_stopArms s0 .estop)
    exact (State.estopActive_congr hlines).trans hon
  · rw [guard_stopArms, harm, hguard]
  · rw [record_stopArms, harm, hrecord]
  · rw [events_stopArms, harm, harm, hevents]
  · exact frame_stopArms s0 .estop
  · rwa [hon, estopEvent_fall hoff] at hexec

end Sys2Proof.Machine
end

section
/-! PROOFS. SET_GEOMETRY, MAP_CLEAR and MAP_FILL in CONFIG: what of the map each writes (R147, R149 to R151): O35 and
O36. -/

namespace Sys2Proof.Machine

/-! ### The gate of CONFIG, passed -/

/-- A command that is taken in CONFIG alone reaches its owner there (section 10.2). -/
theorem takeCellFrame_configOnly_config {s : State} (hr : s.inReset = false) (hm : s.mode = .config) (kind : Byte)
    {owner : State → CellAnswer} {a : CellAnswer} (ha : owner s = a) :
    takeCellFrame kind (configOnly owner) s = .next (a.state.replyCell kind a.result a.clamped a.data) := by
  rw [takeCellFrame_next hr, configOnly_pass hm, ha]

/-! ### Opening every cell -/

theorem geometryOf_eq_none {b : Byte} (h : 2 < b.toNat) : geometryOf b = none := by
  obtain ⟨n, hn⟩ := Nat.exists_eq_add_of_le' h
  unfold geometryOf
  rw [hn]
  rfl

/-- The three geometry codes (R149). -/
theorem geometryOf_eq_some {b : Byte} (h : b.toNat ≤ 2) :
    geometryOf b = some (if b.toNat = 0 then .g64 else if b.toNat = 1 then .g32 else .g16) := by
  have hcases : b.toNat = 0 ∨ b.toNat = 1 ∨ b.toNat = 2 := by omega
  unfold geometryOf
  rcases hcases with h | h | h <;> rw [h] <;> rfl

/-- A map without entries is open in every cell. -/
theorem cellCode_nil (i : Nat) : cellCode [] i = none := rfl

theorem setGeometryOwner_ok {b : Byte} {g : Geometry} (h : geometryOf b = some g) (s : State) :
    setGeometryOwner b s = okCell { s with keepOut := { s.keepOut with geometry := g, cells := [] } } := by
  unfold setGeometryOwner
  rw [h]

theorem setGeometryOwner_badArg {b : Byte} (h : geometryOf b = none) (s : State) :
    setGeometryOwner b s = refuseCell s .badArg := by
  unfold setGeometryOwner
  rw [h]

/-- Settles O35: both commands empty the list of the map's entries, and SET_GEOMETRY writes the geometry beside it. -/
theorem geometryAndMapClear : Obligations.GeometryAndMapClear := by
  intro s hr
  refine ⟨fun hm => ⟨takeCellFrame_configOnly_run hr hm .., fun b => takeCellFrame_configOnly_run hr hm ..⟩,
    fun hm => ⟨?_, fun b => ⟨fun hb => ?_, fun hb => ?_⟩⟩⟩
  · have hnext := takeCellFrame_configOnly_config hr hm 0x09 (owner := mapClearOwner) rfl
    exact ⟨_, hnext, fun i _ => cellCode_nil i, rfl, rfl, fun _ => rfl, rfl, rfl⟩
  · exact takeCellFrame_configOnly_config hr hm 0x07 (setGeometryOwner_badArg (geometryOf_eq_none hb) s)
  · have hnext := takeCellFrame_configOnly_config hr hm 0x07 (setGeometryOwner_ok (geometryOf_eq_some hb) s)
    exact ⟨_, hnext, fun i _ => cellCode_nil i, rfl, rfl, fun _ => rfl, rfl, rfl⟩

/-! ### The number of touched cells -/

/-- Lists joined by a flatMap repeat nothing where each of their elements tells which of them it stands in. -/
theorem nodup_flatMap_of_key {l : List Nat} {f : Nat → List Nat} (key : Nat → Nat) (hl : l.Nodup)
    (hf : ∀ k ∈ l, (f k).Nodup) (hkey : ∀ k ∈ l, ∀ i ∈ f k, key i = k) : (l.flatMap f).Nodup :=
  List.nodup_flatMap.2 ⟨hf, hl.imp_of_mem fun hj hk hne i hij hik =>
    hne ((hkey _ hj i hij).symm.trans (hkey _ hk i hik))⟩

/-- A fill names no cell twice: a cell's index tells its three indices (R146, R147). -/
theorem nodup_touchedCells (g : Geometry) {b : Box} (hb : b.containedIn binVolume = true) :
    (touchedCells g b).Nodup := by
  obtain ⟨hx, hy, -⟩ := index_lt g hb
  simp only [← mem_indexRange] at hx hy
  have hsplit iz iy (hiy : iy ∈ indexRange b.ylo b.yhi g.edgeXY) ix (hix : ix ∈ indexRange b.xlo b.xhi g.edgeXY) :=
    cellIndex_split g.nxy ix iy iz (hx ix hix) (hy iy hiy)
  refine nodup_flatMap_of_key (· / (g.nxy * g.nxy)) (nodup_indexRange ..) (fun iz _ =>
    nodup_flatMap_of_key (· / g.nxy % g.nxy) (nodup_indexRange ..) (fun iy hiy => ?_) fun iy hiy i hi => ?_)
    fun iz _ i hi => ?_
  · refine (nodup_indexRange ..).map_on fun ix hix jx hjx h => ?_
    obtain ⟨hixmod, -⟩ := hsplit iz iy hiy ix hix
    obtain ⟨hjxmod, -⟩ := hsplit iz iy hiy jx hjx
    unfold cellIndex at h
    rw [← hixmod, h, hjxmod]
  · obtain ⟨ix, hix, rfl⟩ := List.mem_map.1 hi
    obtain ⟨-, hiydiv, -⟩ := hsplit iz iy hiy ix hix
    exact hiydiv
  · obtain ⟨iy, hiy, hrow⟩ := List.mem_flatMap.1 hi
    obtain ⟨ix, hix, rfl⟩ := List.mem_map.1 hrow
    obtain ⟨-, -, hizdiv⟩ := hsplit iz iy hiy ix hix
    exact hizdiv

/-- The cells that a box touches, counted among the 4096 (R150). -/
theorem length_touchedCells (g : Geometry) {b : Box} (hb : b.containedIn binVolume = true) :
    (touchedCells g b).length = (List.range 4096).countP (touchesCell g b) := by
  have hperm : (touchedCells g b).Perm ((List.range 4096).filter (touchesCell g b)) := by
    refine (List.perm_ext_iff_of_nodup (nodup_touchedCells g hb) (List.nodup_range.filter _)).2 fun i => ?_
    rw [List.mem_filter, List.mem_range, ← mem_touchedCells g hb]
    exact ⟨fun hi => ⟨touchedCells_lt g hb i hi, hi⟩, And.right⟩
  rw [hperm.length_eq, List.countP_eq_length_filter]

theorem length_indexRange_pos {lo hi : Int} (h : lo ≤ hi) (edge : Nat) : 0 < (indexRange lo hi edge).length := by
  have hdiv : lo.toNat / edge ≤ hi.toNat / edge := Nat.div_le_div_right (Int.toNat_le_toNat h)
  rw [length_indexRange]
  omega

/-- A box touches some cell: the one that its low corner lies in (R146). -/
theorem length_touchedCells_pos (g : Geometry) {b : Box} (hb : b.wellFormed = true) :
    0 < (touchedCells g b).length := by
  obtain ⟨hx, hy, hz⟩ := b.wellFormed_iff.1 hb
  obtain ⟨ix, hix⟩ := List.exists_mem_of_length_pos (length_indexRange_pos hx g.edgeXY)
  obtain ⟨iy, hiy⟩ := List.exists_mem_of_length_pos (length_indexRange_pos hy g.edgeXY)
  obtain ⟨iz, hiz⟩ := List.exists_mem_of_length_pos (length_indexRange_pos hz g.edgeZ)
  have hmem : cellIndex g ix iy iz ∈ touchedCells g b :=
    List.mem_flatMap.2 ⟨iz, hiz, List.mem_flatMap.2 ⟨iy, hiy, List.mem_map.2 ⟨ix, hix, rfl⟩⟩⟩
  exact List.length_pos_of_mem hmem

/-! ### MAP_FILL -/

theorem mapCodeOf_eq_none {b : Byte} (h : 3 < b.toNat) : mapCodeOf b = none := by
  obtain ⟨n, hn⟩ := Nat.exists_eq_add_of_le' h
  unfold mapCodeOf
  rw [hn]
  rfl

theorem mapCodeOf_mapCode {b : Byte} {c : Option Group} (h : b.toNat = mapCode c) : mapCodeOf b = some c := by
  unfold mapCodeOf
  rw [h]
  cases c with
  | none => rfl
  | some g => cases g <;> rfl

theorem exists_mapCode {b : Byte} (h : b.toNat ≤ 3) : ∃ c, b.toNat = mapCode c := by
  have hcases : b.toNat = 0 ∨ b.toNat = 1 ∨ b.toNat = 2 ∨ b.toNat = 3 := by omega
  rcases hcases with h | h | h | h
  · exact ⟨none, h⟩
  · exact ⟨some .g1, h⟩
  · exact ⟨some .g2, h⟩
  · exact ⟨some .g3, h⟩

/-- The state after every cell that box b touches has taken a code (R150). -/
def State.fillMap (s : State) (c : Option Group) (b : Box) : State :=
  { s with keepOut := { s.keepOut with cells := fillCells c (touchedCells s.keepOut.geometry b) s.keepOut.cells } }

theorem mapFillOwner_badArg {code : Byte} (h : 3 < code.toNat) (raw : RawBox) (s : State) :
    mapFillOwner code raw s = refuseCell s .badArg := by
  unfold mapFillOwner
  rw [mapCodeOf_eq_none h]

theorem mapFillOwner_badBox {code : Byte} {c : Option Group} {raw : RawBox} (hcode : code.toNat = mapCode c)
    (hbox : checkBox (boxOf raw) = none) (s : State) : mapFillOwner code raw s = refuseCell s .badBox := by
  unfold mapFillOwner
  rw [mapCodeOf_mapCode hcode, hbox]

theorem mapFillOwner_ok {code : Byte} {c : Option Group} {raw : RawBox} {b : Box} (hcode : code.toNat = mapCode c)
    (hbox : checkBox (boxOf raw) = some b) (s : State) :
    mapFillOwner code raw s =
      { state := s.fillMap c b, result := .ok, clamped := decide (b ≠ boxOf raw)
        data := .cellsTouched (touchedCells s.keepOut.geometry b).length } := by
  unfold mapFillOwner
  rw [mapCodeOf_mapCode hcode, hbox]
  rfl

/-- A fill writes the touched cells and no other (R150). -/
theorem cellCode_fillMap {s : State} (hs : s.MapCanonical) (c : Option Group) {b : Box}
    (hb : b.containedIn binVolume = true) (i : Nat) :
    cellCode (s.fillMap c b).keepOut.cells i =
      if touchesCell s.keepOut.geometry b i = true then c else cellCode s.keepOut.cells i := by
  rw [State.fillMap, cellCode_fillCells c _ hs i _ (touchedCells_lt _ hb)]
  simp only [mem_touchedCells _ hb]

theorem mapCanonical_fillMap {s : State} (hs : s.MapCanonical) (c : Option Group) {b : Box}
    (hb : b.containedIn binVolume = true) : (s.fillMap c b).MapCanonical :=
  fillCells_wf c _ hs _ (touchedCells_lt _ hb)

/-- Settles O36: the cut box lies in the bin, where the list of touched cells names each of them once. -/
theorem mapFillSetsTouchedCells : Obligations.MapFillSetsTouchedCells := by
  intro code raw s hr hm hs
  have hnext {a : CellAnswer} (ha : mapFillOwner code raw s = a) :=
    takeCellFrame_configOnly_config hr hm 0x08 ha
  refine ⟨fun hcode => hnext (mapFillOwner_badArg hcode raw s), fun hcode hbox => ?_, fun g b hcode hwf hcut => ?_⟩
  · obtain ⟨c, hc⟩ := exists_mapCode hcode
    exact hnext (mapFillOwner_badBox hc ((checkBox_eq_none_iff _).2 hbox) s)
  · obtain ⟨hbwf, hin⟩ := Box.binCut_inBin hwf hcut
    exact ⟨s.fillMap g b, _, hnext (mapFillOwner_ok hcode (checkBox_eq_some hwf hcut) s),
      fun i _ => cellCode_fillMap hs g hin i, length_touchedCells _ hin, length_touchedCells_pos _ hbwf,
      mapCanonical_fillMap hs g hin, rfl, rfl, rfl⟩

end Sys2Proof.Machine
end

section
/-! PROOFS. The map cursor and the claim cursor, and the two reads that move them (R152, R153, R194): O37. -/

namespace Sys2Proof.Machine

/-! ### Setting a cursor -/

/-- A value in a cursor's range stays, without CLAMPED. -/
theorem cursor_inRange {n last : Nat} (h : n < last + 1) : n = min n last ∧ decide (last < n) = false :=
  ⟨(min_eq_left (Nat.le_of_lt_succ h)).symm, decide_eq_false (Nat.not_lt.2 (Nat.le_of_lt_succ h))⟩

/-- A value beyond a cursor's range becomes the range's end, with CLAMPED. -/
theorem cursor_beyond {n last : Nat} (h : ¬ n < last + 1) : last = min n last ∧ decide (last < n) = true :=
  have hlt : last < n := Nat.not_lt.1 h
  ⟨(min_eq_right hlt.le).symm, decide_eq_true hlt⟩

/-- MAP_CURSOR clamps its value to the last cell (R152). -/
theorem mapCursorOwner_eq (index : Half) (s : State) :
    ∃ c : Fin 4096, c.val = min index.toNat 4095 ∧
      mapCursorOwner index s =
        { state := { s with cell := { s.cell with mapCursor := c } }, result := .ok
          clamped := decide (4095 < index.toNat), data := .empty } := by
  unfold mapCursorOwner
  split
  · next h =>
    obtain ⟨hval, hflag⟩ := cursor_inRange h
    exact ⟨⟨index.toNat, h⟩, hval, by rw [hflag]; rfl⟩
  · next h =>
    obtain ⟨hval, hflag⟩ := cursor_beyond h
    exact ⟨4095, hval, by rw [hflag]⟩

/-- SET_CURSOR clamps its value to the last slot (R194). -/
theorem setCursorOwner_eq (slot : Byte) (s : State) :
    ∃ c : Fin 24, c.val = min slot.toNat 23 ∧
      setCursorOwner slot s =
        { state := { s with cell := { s.cell with claimCursor := c } }, result := .ok
          clamped := decide (23 < slot.toNat), data := .empty } := by
  unfold setCursorOwner
  split
  · next h =>
    obtain ⟨hval, hflag⟩ := cursor_inRange h
    exact ⟨⟨slot.toNat, h⟩, hval, by rw [hflag]; rfl⟩
  · next h =>
    obtain ⟨hval, hflag⟩ := cursor_beyond h
    exact ⟨23, hval, by rw [hflag]⟩

/-! ### Reading through a cursor -/

theorem length_mapWindow (s : State) : s.mapWindow.length = 64 := (List.length_map _).trans List.length_range

/-- The i-th of the 64 codes is that of the i-th cell from the cursor on, cell 0 following cell 4095 (R153). -/
theorem getElem?_mapWindow (s : State) {i : Nat} (hi : i < 64) :
    s.mapWindow[i]? = some (cellCode s.keepOut.cells ((s.cell.mapCursor.val + i) % 4096)) := by
  unfold State.mapWindow
  rw [List.getElem?_map, List.getElem?_range hi]
  rfl

theorem waitPosition_of_mem {s : State} {k : Fin 24} (h : k ∈ s.waitList) :
    s.waitList[s.waitPosition k]? = some k := by
  unfold State.waitPosition
  rw [if_pos h]
  exact List.getElem?_idxOf h

theorem waitPosition_of_notMem {s : State} {k : Fin 24} (h : k ∉ s.waitList) : s.waitPosition k = 0 := if_neg h

/-- Settles O37: each cursor's owner clamps to the last place, and each read's owner advances its cursor around. -/
theorem cursorsAndTheirReads : Obligations.CursorsAndTheirReads := by
  intro s hr
  refine ⟨fun index hm => ?_, ?_, fun slot => ?_, ?_⟩
  · obtain ⟨c, hc, howner⟩ := mapCursorOwner_eq index s
    exact ⟨c, hc, takeCellFrame_configOnly_config hr hm 0x0A howner⟩
  · exact ⟨s.cell.mapCursor + 64, s.mapWindow, Fin.val_add _ _, length_mapWindow s, fun i => getElem?_mapWindow s,
      takeCellFrame_next hr 0x0B mapReadOwner⟩
  · obtain ⟨c, hc, howner⟩ := setCursorOwner_eq slot s
    have hnext := takeCellFrame_next hr 0x12 (setCursorOwner slot)
    rw [howner] at hnext
    exact ⟨c, hc, hnext⟩
  · exact ⟨s.cell.claimCursor + 1, s.waitPosition s.cell.claimCursor, Fin.val_add _ _,
      takeCellFrame_next hr 0x13 readClaimOwner, waitPosition_of_mem, waitPosition_of_notMem⟩

end Sys2Proof.Machine
end

section
/-! PROOFS. SET_LINE in CONFIG, and GROUP_SET where no activity changes in device RUN: the changes of a source that
reach nothing behind them (R155, R156, R162, R165): O34 and O43. -/

namespace Sys2Proof.Machine

/-! ### GROUP_SET -/

theorem groupOf_eq_none {b : Byte} (h : b.toNat = 0 ∨ 3 < b.toNat) : groupOf b = none := by
  unfold groupOf
  rcases h with h | h
  · rw [h]
    rfl
  · obtain ⟨n, hn⟩ := Nat.exists_eq_add_of_le' h
    rw [hn]
    rfl

theorem flagValueOf_eq_none {b : Byte} (h : 1 < b.toNat) : flagValueOf b = none := by
  obtain ⟨n, hn⟩ := Nat.exists_eq_add_of_le' h
  unfold flagValueOf
  rw [hn]
  rfl

theorem flagValueOf_toNat {b : Byte} {v : Bool} (h : b.toNat = v.toNat) : flagValueOf b = some v := by
  cases v with
  | false => exact flagValueOf_zero h
  | true => exact flagValueOf_one h

theorem groupSetOwner_badArg {group value : Byte} (h : group.toNat = 0 ∨ 3 < group.toNat ∨ 1 < value.toNat)
    (s : State) : groupSetOwner group value s = refuseCell s .badArg := by
  unfold groupSetOwner
  split
  · next hgroup hvalue =>
    rcases or_assoc.2 h with h | h
    · rw [groupOf_eq_none h] at hgroup
      cases hgroup
    · rw [flagValueOf_eq_none h] at hvalue
      cases hvalue
  · rfl

/-- In CONFIG a supervisor flag is written and reaches nothing (R162). -/
theorem afterSources_setFlag_config {s : State} (hm : s.mode = .config) (g : Group) (v : Bool) :
    (s.afterSources fun u => u.setFlag g v) = s.setFlag g v :=
  (afterSources_config (change := fun u => u.setFlag g v) hm).trans (estopEvent_same rfl)

/-- A flag that leaves its group's activity as it was reaches nothing (R156). -/
theorem afterSources_setFlag_same {s : State} {g : Group} {v : Bool}
    (h : (v || s.groupLineActive g) = s.groupActive g) :
    (s.afterSources fun u => u.setFlag g v) = s.setFlag g v := by
  refine afterSources_same (change := fun u => u.setFlag g v) (fun k => ?_) rfl
  rw [groupActive_setFlag]
  split
  · next hk => rw [hk, h]
  · rfl

/-- Settles O43: nothing follows from the change of the flag. -/
theorem groupSetWritesFlag : Obligations.GroupSetWritesFlag := by
  intro group value s hr
  refine ⟨fun hbad => ?_, ?_⟩
  · have hnext := takeCellFrame_next hr 0x0C (groupSetOwner group value)
    rw [groupSetOwner_badArg hbad] at hnext
    exact hnext
  · intro g v hgroup hvalue t hquiet
    have halone : (s.afterSources fun u => u.setFlag g v) = s.setFlag g v :=
      hquiet.elim (fun hm => afterSources_setFlag_config hm g v) afterSources_setFlag_same
    have hnext := groupSet_next hr (groupOf_mapCode hgroup) (flagValueOf_toNat hvalue)
    rw [halone] at hnext
    exact hnext

/-! ### The arguments of SET_LINE -/

theorem lineOf_eq_some {b : Byte} {n : Fin 8} (h : b.toNat = n.val) : lineOf b = some n := by
  have hlt : b.toNat < 8 := h ▸ n.isLt
  unfold lineOf
  rw [dif_pos hlt]
  exact congrArg some (Fin.ext h)

theorem lineOf_eq_none {b : Byte} (h : 7 < b.toNat) : lineOf b = none := dif_neg (Nat.not_lt.2 h)

theorem functionOf_code {b : Byte} {f : LineFunction} (h : b.toNat = f.code) : functionOf b = some f := by
  unfold functionOf
  rw [h]
  cases f with
  | guardIn g => cases g <;> rfl
  | permitMirror p | waitOut p => cases p <;> rfl
  | unused | estopIn | alertMirror | generalOut => rfl

theorem functionOf_eq_none {b : Byte} (h : 10 < b.toNat) : functionOf b = none := by
  obtain ⟨n, hn⟩ := Nat.exists_eq_add_of_le' h
  unfold functionOf
  rw [hn]
  rfl

theorem polarityOf_eq_some {b : Byte} {q : Polarity} (h : b.toNat = if q = .activeLow then 1 else 0) :
    polarityOf b = some q := by
  unfold polarityOf
  rw [h]
  cases q <;> rfl

theorem polarityOf_eq_none {b : Byte} (h : 1 < b.toNat) : polarityOf b = none := by
  obtain ⟨n, hn⟩ := Nat.exists_eq_add_of_le' h
  unfold polarityOf
  rw [hn]
  rfl

theorem setLineOwner_badArg {line func pol : Byte} (h : 7 < line.toNat ∨ 10 < func.toNat ∨ 1 < pol.toNat)
    (deb : Byte) (s : State) : setLineOwner line func pol deb s = refuseCell s .badArg := by
  unfold setLineOwner
  split
  · next hline hfunc hpol =>
    rcases h with h | h | h
    · rw [lineOf_eq_none h] at hline
      cases hline
    · rw [functionOf_eq_none h] at hfunc
      cases hfunc
    · rw [polarityOf_eq_none h] at hpol
      cases hpol
  · rfl

theorem setLineOwner_ok {line func pol : Byte} {n : Fin 8} {f : LineFunction} {q : Polarity}
    (hline : line.toNat = n.val) (hfunc : func.toNat = f.code) (hpol : pol.toNat = if q = .activeLow then 1 else 0)
    (deb : Byte) (s : State) :
    setLineOwner line func pol deb s =
      okClamped (s.configureLine n f q (min deb.toNat 15)) (decide (15 < deb.toNat)) := by
  unfold setLineOwner
  rw [lineOf_eq_some hline, functionOf_code hfunc, polarityOf_eq_some hpol]

/-! ### SET_LINE -/

/-- An e-stop change finds no arm to stop or to resume where both are DETACHED (R128, R139). -/
theorem estopEvent_detached {s : State} (h : ∀ p, s.armState p = .detached) (before : Bool) :
    s.estopEvent before = s := by
  have hstop (p : Arm) : s.stopArm p .estop = s := by
    unfold State.stopArm
    rw [h p]
  have hresume (p : Arm) : s.resumeCheck p = s :=
    (guard_resumeCheck s p).2 fun hready => by
      obtain ⟨hstopped, -⟩ := hready
      rw [h p] at hstopped
      cases hstopped
  unfold State.estopEvent
  simp only [hstop, hresume, ite_self]

theorem isOutput_eq_decide (f : LineFunction) : f.isOutput = decide (5 ≤ f.code) := by
  rcases Nat.lt_or_ge f.code 5 with hcode | hcode
  · rw [isOutput_of_code_le (Nat.le_of_lt_succ hcode), decide_eq_false (Nat.not_le.2 hcode)]
  · rw [isOutput_of_le_code hcode, decide_eq_true hcode]

/-- A line that SET_LINE makes an input takes its filtered level at once from the wiring's level (R165). -/
theorem configured_filtered (f : LineFunction) (q : Polarity) (wire : Level) :
    (!f.isOutput && levelActive q wire) = decide (f.code ≤ 4 ∧ (wire = .high ↔ q = .activeHigh)) := by
  rw [isOutput_eq_decide, levelActive_eq_decide, Bool.decide_and, ← decide_not]
  simp only [Nat.not_le, Nat.lt_succ_iff]

/-- In CONFIG the change of a line's record is all that SET_LINE does (R162, R165). -/
theorem configureLine_config {s : State} (hm : s.mode = .config) (hq : s.ConfigQuiet) (n : Fin 8) (f : LineFunction)
    (q : Polarity) (debounce : Nat) :
    s.configureLine n f q debounce = s.setLine n
      { s.line n with
        func := f, polarity := q, debounce := debounce, filterTimer := none
        filtered := decide (f.code ≤ 4 ∧ ((s.line n).wire = .high ↔ q = .activeHigh))
        wireHolds := (s.line n).wireHolds && decide (5 ≤ f.code) } := by
  obtain ⟨-, -, harms⟩ := hq hm
  have hdetached (l : Line) (p : Arm) : (s.setLine n l).armState p = .detached := by
    obtain ⟨hguard, -⟩ := harms p
    rw [State.setLine_armState]
    exact congrArg Guard.state hguard
  unfold State.configureLine
  rw [afterSources_config (by exact hm), estopEvent_detached (hdetached _)]
  rw [configured_filtered, isOutput_eq_decide]

/-- Settles O34: the owner writes the record, and in CONFIG no change of a source reaches anything. -/
theorem setLineWritesRecord : Obligations.SetLineWritesRecord := by
  intro line func pol deb s hr hm hq
  refine ⟨fun hbad => ?_, fun n f q hline hfunc hpol => ?_⟩
  · exact takeCellFrame_configOnly_config hr hm 0x06 (setLineOwner_badArg hbad deb s)
  · have hnext := takeCellFrame_configOnly_config hr hm 0x06 (setLineOwner_ok hline hfunc hpol deb s)
    rw [configureLine_config hm hq] at hnext
    exact hnext

end Sys2Proof.Machine
end

section
/-! PROOFS. The filter of a general line: a raw level change that reaches the timer alone, a filtered level that reaches
nothing behind it, and a wiring fault at an output pin (R167 to R169): O48. -/

namespace Sys2Proof.Machine

section
variable {s s0 : State} {n : Fin 8} {level : Level}

/-! ### A raw level change -/

/-- A level that the wiring has already is no change (R167). -/
theorem changeRaw_input_same (hr : s.inReset = false) (hcode : (s.line n).func.code ≤ 4)
    (hwire : (s.line n).wire = level) : s.changeRaw n level = s := by
  unfold State.changeRaw
  simp [hr, isOutput_of_code_le hcode, hwire]

/-- A raw level change at an input line is the filter's to answer, once the wiring's level is recorded (R167). -/
theorem changeRaw_input (hr : s.inReset = false) (hcode : (s.line n).func.code ≤ 4)
    (hwire : (s.line n).wire ≠ level) :
    s.changeRaw n level = (s.setLine n { s.line n with wire := level }).filterRaw n := by
  unfold State.changeRaw
  simp [hr, isOutput_of_code_le hcode, hwire]

/-- At an output line a level is held against the one driven, or ends the fault (R169). -/
theorem changeRaw_output (hr : s.inReset = false) (hcode : 5 ≤ (s.line n).func.code) (level : Level) :
    s.changeRaw n level =
      s.setLine n { s.line n with wire := level, wireHolds := decide (s.driven n ≠ some level) } := by
  unfold State.changeRaw
  simp [hr, isOutput_of_le_code hcode]

/-- A level that has returned to the filtered one stops the timer (R167). -/
theorem filterRaw_settles (h : levelActive (s.line n).polarity level = (s.line n).filtered) :
    (s.setLine n { s.line n with wire := level }).filterRaw n =
      s.setLine n { s.line n with wire := level, filterTimer := none } := by
  unfold State.filterRaw
  simp only [State.line_setLine_self, setLine_setLine]
  rw [if_pos h]

/-- A level that differs from the filtered one starts the timer where the debounce time is not 0 (R167). -/
theorem filterRaw_starts (h : levelActive (s.line n).polarity level ≠ (s.line n).filtered)
    (hdebounce : 0 < (s.line n).debounce) :
    (s.setLine n { s.line n with wire := level }).filterRaw n =
      s.setLine n { s.line n with wire := level, filterTimer := some (s.line n).debounce } := by
  unfold State.filterRaw
  simp only [State.line_setLine_self, setLine_setLine]
  rw [if_neg h, if_neg (Nat.ne_of_gt hdebounce)]

theorem expireFilter_not_due (h : (s.line n).filterTimer ≠ some 0) : s.expireFilter n = s := if_neg h

/-! ### A filtered level that reaches nothing -/

/-- A line that is no GUARD_IN line of a group is no source of its activity (R154). -/
theorem FilteredChange.groupActive_of_other {i : Instr} {g : Group} (h : FilteredChange s n i s0)
    (hfunc : (s.line n).func ≠ .guardIn g) : s0.groupActive g = s.groupActive g := by
  obtain ⟨l, hl, rfl⟩ := h.setLine
  simp only [State.groupActive, State.groupLineActive, State.setLine_keepOut, sourceLine_other hl hfunc]

/-- A line that is no ESTOP_IN line is no source of the e-stop (R168). -/
theorem FilteredChange.estopActive_of_other {i : Instr} (h : FilteredChange s n i s0)
    (hfunc : (s.line n).func ≠ .estopIn) : s0.estopActive = s.estopActive := by
  obtain ⟨l, hl, rfl⟩ := h.setLine
  simp only [State.estopActive, sourceLine_other hl hfunc]

theorem FilteredChange.mode {i : Instr} (h : FilteredChange s n i s0) : s0.mode = s.mode := by
  obtain ⟨l, -, rfl⟩ := h.setLine
  rfl

/-- A filtered level that changes neither a group's activity nor the e-stop is that change alone (R168). -/
theorem FilteredChange.alone {i : Instr} (hr : s.inReset = false) (h : FilteredChange s n i s0)
    (hgroups : ∀ g, s0.groupActive g = s.groupActive g) (hestop : s0.estopActive = s.estopActive) :
    exec i s = .next s0 := by
  obtain ⟨change, rfl, hexec⟩ := filteredChange_next hr h
  rwa [afterSources_same hgroups hestop] at hexec

/-- In CONFIG only the e-stop is followed, so that another line's filtered level changes alone (R162). -/
theorem FilteredChange.alone_config {i : Instr} (hr : s.inReset = false) (h : FilteredChange s n i s0)
    (hm : s.mode = .config) (hestop : s0.estopActive = s.estopActive) : exec i s = .next s0 := by
  have hm0 := h.mode.trans hm
  obtain ⟨change, rfl, hexec⟩ := filteredChange_next hr h
  rwa [afterSources_config hm0, estopEvent_same hestop.symm] at hexec

/-- A GUARD_IN line whose change leaves its group's activity as it was, or falls in CONFIG, reaches nothing. -/
theorem FilteredChange.alone_of_guardIn {i : Instr} {g : Group} (hr : s.inReset = false) (h : FilteredChange s n i s0)
    (hfunc : (s.line n).func = .guardIn g) (hquiet : s.mode = .config ∨ s0.groupActive g = s.groupActive g) :
    exec i s = .next s0 := by
  obtain ⟨-, hothers, hestop⟩ := h.guardIn hfunc
  rcases hquiet with hm | hsame
  · exact h.alone_config hr hm hestop
  · refine h.alone hr (fun k => ?_) hestop
    by_cases hk : k = g
    · rw [hk, hsame]
    · exact hothers k hk

theorem FilteredChange.alone_of_unused {i : Instr} (hr : s.inReset = false) (h : FilteredChange s n i s0)
    (hfunc : (s.line n).func = .unused) : exec i s = .next s0 :=
  h.alone hr (fun _ => h.groupActive_of_other (by rw [hfunc]; nofun)) (h.estopActive_of_other (by rw [hfunc]; nofun))

end

/-- Settles O48: the change is none, the filter's to answer, or the pin's, by the line's function, and what a filtered
level of an UNUSED or GUARD_IN line could reach behind it is as it was. -/
theorem filterFollowsRawLevel : Obligations.FilterFollowsRawLevel := by
  refine ⟨levelActive_eq_decide, fun f => ?_, fun n s hr => ⟨fun level => ⟨fun hcode hwire => ?_,
    fun hcode hwire hsame => ?_, fun hcode hwire hdiffers hdebounce => ?_, fun hcode => ?_⟩,
    fun i s0 h => ⟨h.alone_of_unused hr, fun g => h.alone_of_guardIn hr⟩, fun hstopped => ?_⟩⟩
  · rw [isOutput_eq_decide, decide_eq_true_iff]
  · exact congrArg Host.Outcome.next (changeRaw_input_same hr hcode hwire)
  · rw [← levelActive_eq_decide] at hsame
    exact congrArg Host.Outcome.next ((changeRaw_input hr hcode hwire).trans (filterRaw_settles hsame))
  · rw [← levelActive_eq_decide] at hdiffers
    exact congrArg Host.Outcome.next ((changeRaw_input hr hcode hwire).trans (filterRaw_starts hdiffers hdebounce))
  · exact congrArg Host.Outcome.next (changeRaw_output hr hcode level)
  · exact (takeEvent_next hr _).trans (congrArg Host.Outcome.next (expireFilter_not_due hstopped))

end Sys2Proof.Machine
end

section
/-! PROOFS. What is held while a reset lasts (R172, R173): O3. -/

namespace Sys2Proof.Machine

theorem inReset_iff (s : State) : s.inReset = true ↔ s.resetnLow = true ∨ s.supplyLow = true := Bool.or_eq_true_iff

section
variable {s : State} (hr : s.inReset = true)
include hr

/-! ### Commands -/

/-- No frame is taken, no timer runs out and no millisecond counts while the part is held in reset (R173). -/
theorem exec_held {i : Instr} (hassert : i ≠ .resetnAssert) (hrelease : i ≠ .resetnRelease)
    (hpower : i ≠ .powerOnReset) (hsupply : i ≠ .supplyBelowPowerOnThreshold)
    (hraw : ∀ n l, i ≠ .rawLevelChange n l) : exec i s = .next s := by
  cases i <;> dsimp only [exec]
  case resetnAssert => exact absurd rfl hassert
  case resetnRelease => exact absurd rfl hrelease
  case powerOnReset => exact absurd rfl hpower
  case supplyBelowPowerOnThreshold => exact absurd rfl hsupply
  case rawLevelChange n l => exact absurd rfl (hraw n l)
  case nop | attach | detach | report | claim | release | cancel | query | list | ackstop =>
    exact takeArmFrame_held hr _ _ _
  case unknownKind link kind =>
    cases link <;> dsimp only [execUnknownKind]
    case arm p => exact takeArmFrame_held hr p kind _
    case cell => exact takeCellFrame_held hr kind _
  case frameFailed | lapse | waitExpiry | reportTimerExpiry | filterTimerExpiry | accumulatorStep =>
    exact takeEvent_held hr _
  -- Every other command is a frame of the cell controller.
  all_goals exact takeCellFrame_held hr _ _

/-- The wiring's level moves at a pin, and the filter does not see it (R173). -/
theorem changeRaw_held (n : Fin 8) (level : Level) :
    s.changeRaw n level = s.setLine n { s.line n with wire := level } :=
  if_pos hr

/-! ### Outputs -/

theorem permitHigh_held (p : Arm) : s.permitHigh p = false := by
  unfold State.permitHigh
  rw [hr]
  rfl

theorem alertLow_held : s.alertLow = false := by
  unfold State.alertLow
  rw [hr]
  rfl

theorem driven_held (n : Fin 8) : s.driven n = none := by
  unfold State.driven
  rw [hr]
  rfl

end

/-- Settles O3: each kind of frame and event is turned away at its own gate, and each output is gated by the reset. -/
theorem resetHoldsPart : Obligations.ResetHoldsPart :=
  ⟨inReset_iff, fun _ => ⟨rfl, rfl⟩, fun _ hr =>
    ⟨fun _ => exec_held hr, fun n l => congrArg Host.Outcome.next (changeRaw_held hr n l), permitHigh_held hr,
      alertLow_held hr, driven_held hr⟩⟩

end Sys2Proof.Machine
end

section
/-! PROOFS. READ_ARM, READ_LINES, READ_EVENTS and READ_COUNTERS (R171, R195, R200, R202): O38. -/

namespace Sys2Proof.Machine

/-! ### READ_ARM -/

theorem readArmOwner_badArg {arm : Byte} (h : 1 < arm.toNat) (s : State) :
    readArmOwner arm s = refuseCell s .badArg := by
  unfold readArmOwner
  rw [armOf_eq_none h]

theorem readArmOwner_ok {arm : Byte} {p : Arm} (h : arm.toNat = armCode p) (s : State) :
    readArmOwner arm s = okRead s (.armRecord (s.guard p) (s.record p)) := by
  unfold readArmOwner
  rw [(armOf_eq_some arm p).2 h]

/-! ### READ_LINES -/

theorem length_readings (s : State) : s.readings.length = 8 := (List.length_map _).trans List.length_finRange

/-- The n-th reading is that of line n (R171). -/
theorem getElem?_readings (s : State) (n : Fin 8) :
    s.readings[n.val]? = some { raw := s.rawLevel n, filtered := (s.line n).filtered, func := (s.line n).func
                                out := (s.line n).out } := by
  have hline : allLines[n.val]? = some n := by
    unfold allLines
    rw [List.getElem?_eq_getElem (List.length_finRange ▸ n.isLt), List.getElem_finRange]
    rfl
  unfold State.readings
  rw [List.getElem?_map, hline]
  rfl

/-! ### The four reads -/

/-- A read answers OK with what it finds, and the reply is all that it changes. -/
theorem takeCellFrame_read {s : State} (hr : s.inReset = false) (kind : Byte) (data : State → CellData) :
    takeCellFrame kind (fun t => okRead t (data t)) s = .next (s.replyCell kind .ok false (data s)) :=
  takeCellFrame_next hr kind _

/-- Settles O38: each read is one answer of its owner, which leaves the state as it stands. -/
theorem plainReads : Obligations.PlainReads := by
  intro s hr
  refine ⟨fun arm => ⟨fun hbad => ?_, fun p harm => ?_⟩, ?_, ?_, ?_⟩
  · have hnext := takeCellFrame_next hr 0x14 (readArmOwner arm)
    rw [readArmOwner_badArg hbad] at hnext
    exact hnext
  · have hnext := takeCellFrame_next hr 0x14 (readArmOwner arm)
    rw [readArmOwner_ok harm] at hnext
    exact hnext
  · exact ⟨s.readings, takeCellFrame_read hr 0x17 fun t => .lines t.readings t.estopActive, length_readings s,
      getElem?_readings s⟩
  · exact takeCellFrame_read hr 0x18 fun t => .events t.flagsWord t.events.mask
  · exact takeCellFrame_read hr 0x1B State.counters

end Sys2Proof.Machine
end

section
/-! PROOFS. The replies to a valid and to a failed frame (R177 to R181, R184): O13 and O15. -/

namespace Sys2Proof.Machine

/-- Settles O13: an arm reply replaces its own link's slot and queue, and a cell controller reply its slot alone. -/
theorem replyReplacesSlot : Obligations.ReplyReplacesSlot := by
  refine ⟨fun s p kind r d => ?_, fun s kind r c d => ⟨rfl, rfl, rfl, rfl, rfl, rfl⟩⟩
  dsimp only
  rw [link_replyArm, if_pos rfl, link_replyArm, if_neg (other_ne p)]
  exact ⟨rfl, rfl, rfl, rfl, rfl, rfl, rfl⟩

theorem setLink_setLink (s : State) (p : Arm) (l m : ArmLink) : (s.setLink p l).setLink p m = s.setLink p m := by
  unfold State.setLink
  rw [PerArm.set_set]

/-- A failed arm frame in one write of its link: the counter and the failure reply, and the queue as it was. -/
theorem failFrame_arm (s : State) (p : Arm) :
    s.failFrame (.arm p) =
      (s.setLink p
        { s.link p with
          errors := min ((s.link p).errors + 1) 15
          reply :=
            { echo := 0, status := s.armStatus p, result := .crcFail, notice := none, data := .empty } }).flagLinkErr
        (.arm p) := by
  let counted := (s.countError (.arm p)).flagLinkErr (.arm p)
  have hlink : counted.link p = { s.link p with errors := min ((s.link p).errors + 1) 15 } :=
    State.link_setLink_self _ _ _
  have hstatus : counted.armStatus p = s.armStatus p := by
    unfold State.armStatus
    rw [hlink]
    rfl
  show counted.failArm p = _
  unfold State.failArm
  rw [hlink, hstatus]
  exact congrArg (fun t => State.flagLinkErr t (.arm p)) (setLink_setLink s p _ _)

/-- Settles O15: an arm link's failed frame is one write of the link, and the cell controller's leaves all but its own
link and flag. -/
theorem failedFrameCounted : Obligations.FailedFrameCounted := by
  intro s hr
  refine ⟨fun p => ?_, s.failFrame .cell, takeEvent_next hr fun t => t.failFrame .cell, rfl, rfl, rfl⟩
  have hnext := takeEvent_next hr fun t => t.failFrame (.arm p)
  rw [failFrame_arm] at hnext
  exact hnext

end Sys2Proof.Machine
end

section
/-! PROOFS. How a frame is judged: the CRC, which frames are valid, and the command that stands in a valid frame's bytes
(sections 9.5 and 9.6, R175 to R178, R185): O12. -/

namespace Sys2Proof.Machine

/-! ### The CRC -/

theorem crcBit_eq (r : Byte) (bit : Bool) :
    crcBit r bit = if r.getLsbD 7 = bit then r <<< 1 else (r <<< 1) ^^^ 0x07 := by
  unfold crcBit
  rw [BitVec.msb_eq_getLsbD_last]
  rfl

/-- A byte goes through the CRC register bit by bit, bit 7 first (R176). -/
theorem crcByte_eq (r b : Byte) :
    crcByte r b = (List.range 8).foldl
      (fun (r : Byte) n => if r.getLsbD 7 = b.getLsbD (7 - n) then r <<< 1 else (r <<< 1) ^^^ 0x07) r := by
  have hbits : bitsMsbFirst b = (List.range 8).map fun n => b.getLsbD (7 - n) := rfl
  unfold crcByte
  rw [hbits, List.foldl_map]
  simp only [crcBit_eq]

theorem crc8_append_byte (l : List Byte) (b : Byte) : crc8 (l ++ [b]) = crcByte (crc8 l) b := by
  unfold crc8
  rw [List.foldl_append]
  rfl

/-! ### Which frames are valid -/

theorem frameValid_iff (link : Link) (f : List Byte) :
    frameValid link f = true ↔
      link.frameSize ≤ f.length ∧ byteAt f (link.frameSize - 1) = crc8 (f.take (link.frameSize - 1)) := by
  unfold frameValid
  rw [Bool.and_eq_true, decide_eq_true_iff, beq_iff_eq]

theorem frameSize_pos (link : Link) : 0 < link.frameSize := by
  cases link <;> exact Nat.succ_pos _

theorem frameValid_append {link : Link} {f : List Byte} (h : link.frameSize ≤ f.length) (extra : List Byte) :
    frameValid link (f ++ extra) = frameValid link f := by
  have hpos := frameSize_pos link
  rw [Bool.eq_iff_iff, frameValid_iff, frameValid_iff, byteAt_append_left (by omega),
    List.take_append_of_le_length (by omega), List.length_append]
  exact and_congr_left fun _ => ⟨fun _ => h, fun _ => by omega⟩

/-! ### The command in the bytes -/

/-- The command of a valid frame of either size, by its kind byte. -/
def decodeKind : Link → List Byte → Instr
  | .arm p, f => decodeArmKind p f
  | .cell, f => decodeCellKind f

theorem decodeFrame_of_valid {link : Link} {f : List Byte} (h : frameValid link f = true) :
    decodeFrame link f = decodeKind link f := by
  unfold decodeFrame
  rw [if_pos h]
  cases link <;> rfl

theorem decodeFrame_of_not_valid {link : Link} {f : List Byte} (h : ¬ frameValid link f = true) :
    decodeFrame link f = .frameFailed link := by
  unfold decodeFrame
  rw [if_neg h]

/-- Every byte that a layout names stands before the CRC (sections 9.5 and 9.6). -/
theorem decodeKind_congr {link : Link} {f g : List Byte}
    (h : ∀ n, n < link.frameSize - 1 → byteAt f n = byteAt g n) : decodeKind link f = decodeKind link g := by
  cases link with
  | arm p =>
    have hbyte (n : Nat) (hn : n < 15) : byteAt f n = byteAt g n := h n hn
    simp [decodeKind, decodeArmKind, boxAt, halfAt, hbyte]
  | cell =>
    have hbyte (n : Nat) (hn : n < 31) : byteAt f n = byteAt g n := h n hn
    simp [decodeKind, decodeCellKind, boxAt, halfAt, hbyte]

/-- Bytes beyond the frame size are ignored (R175). -/
theorem decodeFrame_append {link : Link} {f : List Byte} (h : link.frameSize ≤ f.length) (extra : List Byte) :
    decodeFrame link (f ++ extra) = decodeFrame link f := by
  have hvalid := frameValid_append h extra
  by_cases hf : frameValid link f = true
  · rw [decodeFrame_of_valid hf, decodeFrame_of_valid (hvalid.trans hf)]
    exact decodeKind_congr fun n hn => byteAt_append_left (by omega)
  · rw [decodeFrame_of_not_valid hf, decodeFrame_of_not_valid (hvalid ▸ hf)]

theorem decodeKind_undefined {link : Link} {f : List Byte} (h : link.kindDefined (byteAt f 0) = false) :
    decodeKind link f = .unknownKind link (byteAt f 0) := by
  cases link with
  | arm p =>
    have hkind : ¬ (byteAt f 0).toNat ≤ 0x09 := of_decide_eq_false h
    unfold decodeKind decodeArmKind
    dsimp only
    split
    case h_11 => rfl
    all_goals omega
  | cell =>
    have hkind : ¬ (byteAt f 0).toNat ≤ 0x1D := of_decide_eq_false h
    unfold decodeKind decodeCellKind
    dsimp only
    split
    case h_31 => rfl
    all_goals omega

theorem byte_eq_ofNat {b : Byte} {n : Nat} (h : b.toNat = n) : b = BitVec.ofNat 8 n := by
  rw [← h, BitVec.ofNat_toNat, BitVec.setWidth_eq]

/-- Each layout of section 9.5, at the kind that selects it; no other kind is defined. -/
theorem decodeArmKind_reads (p : Arm) {f : List Byte} (h : (byteAt f 0).toNat ≤ 0x09) :
    (∃ rest, frameContent (decodeArmKind p f) = some (.arm p, byteAt f 0 :: rest)) ∧
      RequestReads f (decodeArmKind p f) := by
  unfold decodeArmKind
  split
  case h_11 => grind
  all_goals
    next hn =>
      have hkind := byte_eq_ofNat hn
      unfold frameContent RequestReads
      simp [hkind]

/-- Each layout of section 9.6, at the kind that selects it; SET_MODE's target byte selects one of two commands. -/
theorem decodeCellKind_reads {f : List Byte} (h : (byteAt f 0).toNat ≤ 0x1D) :
    (∃ rest, frameContent (decodeCellKind f) = some (.cell, byteAt f 0 :: rest)) ∧
      CommandReads f (decodeCellKind f) := by
  unfold decodeCellKind
  split
  case h_31 => grind
  case h_3 hn =>
    have hkind := byte_eq_ofNat hn
    by_cases htarget : byteAt f 1 = 0
    · rw [if_pos htarget]
      exact ⟨⟨_, by rw [hkind]; rfl⟩, hkind, htarget⟩
    · rw [if_neg htarget]
      exact ⟨⟨_, by rw [hkind]; rfl⟩, hkind, rfl, htarget⟩
  all_goals
    next hn =>
      have hkind := byte_eq_ofNat hn
      unfold frameContent CommandReads
      simp [hkind]

theorem toNat_halfAt (f : List Byte) (n : Nat) :
    (halfAt f n).toNat = (byteAt f n).toNat + 256 * (byteAt f (n + 1)).toNat := by
  unfold halfAt
  rw [BitVec.toNat_append, ← Nat.shiftLeft_add_eq_or_of_lt (byteAt f n).isLt, Nat.shiftLeft_eq]
  omega

/-- Settles O12: length and CRC decide whether a frame fails, and then the kind byte which layout is read. -/
theorem frameJudgement : Obligations.FrameJudgement := by
  refine ⟨⟨rfl, fun l b => ?_⟩, fun p => ⟨rfl, fun _ => rfl⟩, ⟨rfl, fun _ => rfl⟩, toNat_halfAt,
    fun f n => ⟨rfl, rfl⟩, fun r => rfl,
    fun link f => ⟨fun hshort => ?_, fun hlen hcrc => ?_, decodeFrame_append, fun hlen hcrc => ?_⟩⟩
  · rw [crc8_append_byte, crcByte_eq]
  · exact decodeFrame_of_not_valid fun hvalid => Nat.not_le_of_lt hshort ((frameValid_iff link f).1 hvalid).1
  · exact decodeFrame_of_not_valid fun hvalid => hcrc ((frameValid_iff link f).1 hvalid).2
  · rw [decodeFrame_of_valid ((frameValid_iff link f).2 ⟨hlen, hcrc⟩)]
    refine ⟨decodeKind_undefined, fun hkind => ?_⟩
    cases link with
    | arm p =>
      obtain ⟨hcontent, hreads⟩ := decodeArmKind_reads p (of_decide_eq_true hkind)
      exact ⟨hcontent, fun _ => hreads, nofun⟩
    | cell =>
      obtain ⟨hcontent, hreads⟩ := decodeCellKind_reads (of_decide_eq_true hkind)
      exact ⟨hcontent, nofun, fun _ => hreads⟩

end Sys2Proof.Machine
end

section
/-! PROOFS. The frame written for a command, read back (R175 to R178, R185, R186): O11. -/

namespace Sys2Proof.Machine

/-! ### The frame written -/

/-- A failed frame is written as no bytes, and any other command as its content, sealed. -/
theorem encodeFrame_cases {i : Instr} {link : Link} {bytes : List Byte} (h : encodeFrame i = some (link, bytes)) :
    (frameContent i = some (link, []) ∧ bytes = []) ∨
      ∃ kind rest, frameContent i = some (link, kind :: rest) ∧ bytes = sealFrame link.frameSize (kind :: rest) := by
  unfold encodeFrame at h
  split at h
  case h_1 => cases h
  case h_2 hcontent => cases h; exact .inl ⟨hcontent, rfl⟩
  case h_3 hcontent => cases h; exact .inr ⟨_, _, hcontent, rfl⟩

theorem eq_frameFailed_of_content_nil {i : Instr} {link : Link} (h : frameContent i = some (link, [])) :
    i = .frameFailed link := by
  cases i with
  | frameFailed => cases h; rfl
  | _ => cases h

theorem content_lt_frameSize (i : Instr) : Laws.ContentFits.Statement i := by
  cases i with
  | unknownKind link kind => exact Laws.ContentFits.unknownKind link kind
  | frameFailed link => exact Laws.ContentFits.frameFailed link
  | lapse | waitExpiry | reportTimerExpiry | rawLevelChange | filterTimerExpiry | accumulatorStep | resetnAssert
  | resetnRelease | powerOnReset | supplyBelowPowerOnThreshold => exact Laws.ContentFits.of_none rfl
  | _ => exact Laws.ContentFits.of_eq rfl rfl

theorem frameValid_sealFrame {link : Link} {content : List Byte} (h : content.length < link.frameSize) :
    frameValid link (sealFrame link.frameSize content) = true :=
  (frameValid_iff _ _).2 ⟨(length_sealFrame h).ge, crc_sealFrame h⟩

theorem not_frameValid_nil (link : Link) : ¬ frameValid link [] = true := fun h =>
  Nat.not_le_of_lt (frameSize_pos link) ((frameValid_iff link []).1 h).1

/-! ### The content read back -/

theorem boxAt_boxBytes (kind b : Byte) (box : RawBox) : boxAt (kind :: b :: boxBytes box) 2 = box := by
  simp [boxAt, halfAt, byteAt, boxBytes, halfBytes, halfBytes_append]

/-- Each layout in both directions: the kind and the fields of a command's content are those of the command. -/
theorem decodeKind_content {i : Instr} {link : Link} {kind : Byte} {rest : List Byte} (hwf : i.wellFormed = true)
    (h : frameContent i = some (link, kind :: rest)) : decodeKind link (kind :: rest) = i := by
  cases i with
  | unknownKind =>
    cases h
    exact decodeKind_undefined (Bool.not_eq_true' _ ▸ hwf)
  | setModeRun target =>
    cases h
    exact if_neg (bne_iff_ne.1 hwf)
  | claim p cls box => cases h; exact congrArg (Instr.claim p cls) (boxAt_boxBytes _ _ box)
  | mapFill code box => cases h; exact congrArg (Instr.mapFill code) (boxAt_boxBytes _ _ box)
  | report | loadCal | loadProfile | loadTiming | mapCursor | clearEvents | setMask =>
    cases h
    simp [decodeKind, decodeArmKind, decodeCellKind, byteAt, halfAt, halfBytes, halfBytes_append]
  | frameFailed | lapse | waitExpiry | reportTimerExpiry | rawLevelChange | filterTimerExpiry | accumulatorStep
  | resetnAssert | resetnRelease | powerOnReset | supplyBelowPowerOnThreshold => cases h
  | _ => cases h; rfl

/-- Settles O11: the frame written is valid, and before its CRC it reads as the command's content. -/
theorem frameRoundTrip : Obligations.FrameRoundTrip := by
  intro i link bytes hwf henc
  rcases encodeFrame_cases henc with ⟨hcontent, rfl⟩ | ⟨kind, rest, hcontent, rfl⟩
  · obtain rfl := eq_frameFailed_of_content_nil hcontent
    exact ⟨decodeFrame_of_not_valid (not_frameValid_nil link), fun hne => absurd rfl hne⟩
  · have hlen := content_lt_frameSize i link _ hcontent
    have hvalid := frameValid_sealFrame hlen
    refine ⟨?_, fun _ => ⟨length_sealFrame hlen, hvalid, crc_sealFrame hlen⟩⟩
    calc decodeFrame link (sealFrame link.frameSize (kind :: rest))
      _ = decodeKind link (sealFrame link.frameSize (kind :: rest)) := decodeFrame_of_valid hvalid
      _ = decodeKind link (kind :: rest) := decodeKind_congr fun n hn => byteAt_sealFrame hlen hn
      _ = i := decodeKind_content hwf hcontent

end Sys2Proof.Machine
end

section
/-! PROOFS. The polls of the cell controller, and SET_MODE RUN with its commit check (R11, R188, R196): O29 and O31. -/

namespace Sys2Proof.Machine

/-! ### IDENT and NOP -/

/-- Byte 1 of the cell controller's reply tells the device mode and the ALERT condition of the state that it is queued
in (section 9.6). -/
theorem flagByte_replyCell (s : State) (kind : Byte) (r : Result) (clamped : Bool) (d : CellData) :
    ((s.replyCell kind r clamped d).cell.reply.flagByte.getLsbD 0 = true ↔ s.mode = .run) ∧
      (s.replyCell kind r clamped d).cell.reply.flagByte.getLsbD 2 = s.alertLow := by
  obtain ⟨hmode, -, halert, -⟩ := CellReply.flagByte_reads (s.replyCell kind r clamped d).cell.reply
  exact ⟨by rw [hmode]; exact beq_iff_eq, halert⟩

/-- Settles O29: IDENT is a read of the identity, and NOP an empty answer. -/
theorem cellPolls : Obligations.CellPolls := fun s hr =>
  ⟨takeCellFrame_read hr 0x01 fun _ => .identity, rfl, takeCellFrame_next hr 0x00 okCell,
    fun kind d => flagByte_replyCell s kind .ok false d⟩

/-! ### The commit check -/

theorem calibrated_iff (s : State) (p : Arm) : s.calibrated p = true ↔ Commits s p := by
  unfold State.calibrated Calibration.valid Commits
  rw [Bool.and_eq_true, decide_eq_true_iff]

/-- The commit check names no arm where both records pass, and otherwise the first that fails, arm A before arm B
(R188). -/
theorem commitFailure_cases (s : State) :
    (Commits s .a → Commits s .b → s.commitFailure = none) ∧ (¬ Commits s .a → s.commitFailure = some .a) ∧
      (Commits s .a → ¬ Commits s .b → s.commitFailure = some .b) := by
  simp only [← calibrated_iff]
  unfold State.commitFailure
  cases s.calibrated .a <;> cases s.calibrated .b <;> decide

/-! ### SET_MODE by its target -/

theorem enterRunOwner_run {s : State} (hm : s.mode = .run) : enterRunOwner s = okCell s := if_pos hm

/-- SET_MODE RUN in CONFIG commits where the check names no arm (R188). -/
theorem enterRunOwner_commits {s : State} (hm : s.mode = .config) (h : s.commitFailure = none) :
    enterRunOwner s = okCell { s with mode := .run } := by
  unfold enterRunOwner
  rw [if_neg (by rw [hm]; exact nofun), h]

/-- SET_MODE RUN in CONFIG is answered CAL_BAD with the arm that the check names (R188). -/
theorem enterRunOwner_calBad {s : State} {p : Arm} (hm : s.mode = .config) (h : s.commitFailure = some p) :
    enterRunOwner s = { state := s, result := .calBad, clamped := false, data := .calBad p } := by
  unfold enterRunOwner
  rw [if_neg (by rw [hm]; exact nofun), h]

theorem setModeOwner_badArg {target : Byte} (h : 1 < target.toNat) (s : State) :
    setModeOwner target s = refuseCell s .badArg := by
  unfold setModeOwner
  split
  · omega
  · omega
  · rfl

theorem exec_setModeRun {s : State} {target : Byte} {a : CellAnswer} (hr : s.inReset = false)
    (ha : setModeOwner target s = a) :
    exec (.setModeRun target) s = .next (a.state.replyCell 0x02 a.result a.clamped a.data) :=
  ha ▸ takeCellFrame_next hr 0x02 (setModeOwner target)

/-- Target 1 is RUN, and makes the commit check (R188). -/
theorem exec_setModeRun_one {s : State} {a : CellAnswer} (hr : s.inReset = false) (ha : enterRunOwner s = a) :
    exec (.setModeRun 1) s = .next (a.state.replyCell 0x02 a.result a.clamped a.data) :=
  exec_setModeRun (target := 1) hr ha

/-- Settles O31: the three findings of the commit check, RUN already entered, and a target that is neither mode. -/
theorem setModeRunCommits : Obligations.SetModeRunCommits := by
  intro s hr
  obtain ⟨hpass, hfailA, hfailB⟩ := commitFailure_cases s
  refine ⟨fun hm ha hb => ?_, fun hm ha => ?_, fun hm ha hb => ?_, fun hm => ?_, fun target hbad => ?_⟩
  · exact exec_setModeRun_one hr (enterRunOwner_commits hm (hpass ha hb))
  · exact exec_setModeRun_one hr (enterRunOwner_calBad hm (hfailA ha))
  · exact exec_setModeRun_one hr (enterRunOwner_calBad hm (hfailB ha hb))
  · exact exec_setModeRun_one hr (enterRunOwner_run hm)
  · exact exec_setModeRun hr (setModeOwner_badArg hbad s)

end Sys2Proof.Machine
end

section
/-! PROOFS. The event unit's writes, and the step at either end of the queue (R199, R200, R202): O42 and O1. -/

namespace Sys2Proof.Machine

/-! ### The step by its queue -/

/-- A step with a command at the front of the queue runs it on the state with the queue's rest. -/
theorem step_cons {s : State} {i : Instr} {rest : List Instr} (h : s.pending = i :: rest) :
    step s = exec i { s with pending := rest } := by
  unfold step
  rw [h]

/-- A step on an empty queue idles. -/
theorem step_nil {s : State} (h : s.pending = []) : step s = .next s := by
  unfold step
  rw [h]

/-- Settles O1, by the two forms of the queue. -/
theorem stepTakesFrontCommand : Obligations.StepTakesFrontCommand :=
  ⟨fun i rest s => step_cons (s := { s with pending := i :: rest }) rfl, fun _ => step_nil⟩

/-! ### Sticky flags and counters -/

/-- A flag without a persisting condition clears where it is named (R200). -/
theorem keepFlag_false (flag named : Bool) : keepFlag flag named false = (flag && !named) := by
  unfold keepFlag
  rw [Bool.or_false]

theorem exec_clearEvents {s : State} (hr : s.inReset = false) (named : Half) :
    exec (.clearEvents named) s = .next ((s.clearFlags named).replyCell 0x19 .ok false .empty) :=
  takeCellFrame_next hr 0x19 fun t => okCell (t.clearFlags named)

/-- An arm link's counter is one write of the link, whether or not the set names it. -/
theorem clearErrors_eq (s : State) (p : Arm) (named : Bool) :
    s.clearErrors p named = s.setLink p { s.link p with errors := if named then 0 else (s.link p).errors } := by
  cases named with
  | true => rfl
  | false =>
    change s = { s with links := s.links.set p (s.links.get p) }
    rw [PerArm.set_get]

/-- The cell controller's counter is one write of its link, whether or not the set names it. -/
theorem clearCellErrors_eq (s : State) (named : Bool) :
    (if named then { s with cell := { s.cell with errors := 0 } } else s) =
      { s with cell := { s.cell with errors := if named then 0 else s.cell.errors } } := by
  cases named <;> rfl

theorem Accumulator.clearIf_eq (a : Accumulator) (named : Bool) :
    a.clearIf named = { a with value := if named then 0 else a.value } := by
  cases named <;> rfl

theorem exec_clearCounters {s : State} (hr : s.inReset = false) (set : Byte) :
    exec (.clearCounters set) s = .next ((clearCountersOwner set s).state.replyCell 0x1C .ok false .empty) :=
  takeCellFrame_next hr 0x1C (clearCountersOwner set)

/-- Settles O42: CLEAR_EVENTS keeps a named flag by its condition alone, CLEAR_COUNTERS is one write for each counter,
and SET_MASK and SET_ACC_ENABLE are one write of the event unit. -/
theorem eventUnitWrites : Obligations.EventUnitWrites := by
  intro s hr
  refine ⟨fun named => ?_, fun mask => ?_, fun set => ?_, fun enables => ?_⟩
  · have hnext := exec_clearEvents hr named
    unfold State.clearFlags at hnext
    simp only [keepFlag_false] at hnext
    exact hnext
  · exact takeCellFrame_next hr 0x1A (setMaskOwner mask)
  · have hnext := exec_clearCounters hr set
    unfold clearCountersOwner at hnext
    simp only [clearErrors_eq, clearCellErrors_eq, Accumulator.clearIf_eq] at hnext
    exact ⟨_, hnext, rfl, rfl, rfl, rfl, rfl⟩
  · exact takeCellFrame_next hr 0x1D (setAccEnableOwner enables)

end Sys2Proof.Machine
end
